-- ==== Sys2Proof/Word.lean ====
section
/-! DEFINITION. The word types of the block: the widths of 00_scope.md rule R10. Every value is unsigned (R12). -/

namespace Sys2Proof

/-- A colour channel, the brightness, or one element of `FBB`: `CHAN_W` = 8 bits (R10, R30). -/
abbrev Byte := BitVec 8

/-- An index, a count, or a 16-bit transport register: `IDX_W` = 16 bits (R10). -/
abbrev Half := BitVec 16

/-- A duty value in ticks, one element of `FBA`: `DUTY_W` = 16 bits (R10, R29). -/
abbrev Duty := BitVec 16

/-- A 4-bit code of Backend B (R110). -/
abbrev Nibble := BitVec 4

/-- A command word `CMD48`: `CMD_W` = 48 bits (R10, R90). -/
abbrev CmdWord := BitVec 48

/-- The 24-bit wire word `W24` (R101) or response word `RSP24` (R96). -/
abbrev Word24 := BitVec 24

/-- One LED's stored colour: three channels (R10, R24). How the triple is laid out inside the element is not observable
(20_memory.md rule R61), so it is a record and not a word. -/
structure Pixel where
  r : Byte
  g : Byte
  b : Byte
  deriving DecidableEq, Repr, Inhabited

/-- The colour off, `(0, 0, 0)`. -/
def Pixel.zero : Pixel := { r := 0#8, g := 0#8, b := 0#8 }

end Sys2Proof
end

