-- ==== Sys2Proof/Config.lean ====
section
/-! DEFINITION. What is fixed per machine (00_scope.md rules R6 to R11, 10_state.md rule R51, the parameter list of
92_eei_decisions.md), the legality of a choice of parameters, the default parameters, and the free values. -/

namespace Sys2Proof

/-- `BACKEND` (R6): which transport the block was built with. -/
inductive Backend where
  | A
  | B
  deriving DecidableEq, Repr

/-- `REINIT` (R138, 92_eei_decisions.md D16): what a valid second `init` does. -/
inductive Reinit where
  | refuse
  | ignore
  | rebind
  deriving DecidableEq, Repr

/-- The parameters of one block (R6 to R9, R51, R138, R172). -/
structure Config where
  backend : Backend
  maxLeds : Nat
  defaultBrightness : Byte
  tickHz : Nat
  periodTicks : Nat
  duty0Ticks : Nat
  duty1Ticks : Nat
  settleTicks : Nat
  sbitTicks : Nat
  code0Nib : Nibble
  code1Nib : Nibble
  resetBytes : Nat
  buildTicks : Nat
  reinit : Reinit
  deriving DecidableEq, Repr

namespace Config

/-- `LA(N)` = `24×N + 2`, the length of a Backend A frame (R11). -/
def lenA (n : Nat) : Nat := 24 * n + 2

/-- `LB(N)` = `12×N + 2`, the length of a Backend B frame (R11). -/
def lenB (n : Nat) : Nat := 12 * n + 2

/-- The capacity of `FBA` (R11, R29). -/
def capA (c : Config) : Nat := lenA c.maxLeds

/-- The capacity of `FBB` (R11, R30). -/
def capB (c : Config) : Nat := lenB c.maxLeds

/-- The length of a `show`'s byte stream on Backend B (R231). -/
def showLen (c : Config) (n : Nat) : Nat := 2 * c.resetBytes + lenB n

/-- A 4-bit code of the form `1…10…0` that starts high and ends low (R9, R110). -/
def codeShape (n : Nibble) : Bool := n == 0b1000#4 || n == 0b1100#4 || n == 0b1110#4

/-- `DUTY0_TICKS` derived from the period as R9 derives it. -/
def derivedDuty0 (period : Nat) : Nat := (period * 32 + 50) / 100

/-- `DUTY1_TICKS` derived from the period as R9 derives it. -/
def derivedDuty1 (period : Nat) : Nat := (period * 68 + 50) / 100

/-- The constraints a model may assume of the parameters: the last column of R9's table, R7, R8 and the list of
92_eei_decisions.md. The last clause, on a Backend B block alone, is DEDUCED (log entry 17): `blen` is 16 bits wide (R46, "Backend B
only") and no truncation ever changes a value (R13). -/
def legal (c : Config) : Bool :=
  decide (1 ≤ c.maxLeds) && decide (c.capA < 2 ^ 16) && decide (c.defaultBrightness ≠ 255#8) &&
  decide (4 ≤ c.periodTicks) && decide (c.periodTicks < 2 ^ 16) &&
  decide (0 < c.duty0Ticks) && decide (c.duty0Ticks < c.duty1Ticks) && decide (c.duty1Ticks < c.periodTicks) &&
  decide (1 ≤ c.settleTicks) && decide (c.settleTicks < 2 ^ 16) && decide (1 ≤ c.sbitTicks) &&
  codeShape c.code0Nib && codeShape c.code1Nib && decide (c.code0Nib < c.code1Nib) &&
  decide (1 ≤ c.resetBytes) && (c.backend == .A || decide (c.showLen c.maxLeds < 2 ^ 16))

/-- The defaults of R9 for a given backend. `DEFAULT_BRIGHTNESS` has no default in the spec (R8); the 64 here is a
DESIGN CHOICE (log entry 4): it stands only in `State.reset`, and no statement rests on it. -/
def defaults (b : Backend) : Config where
  backend := b
  maxLeds := 24
  defaultBrightness := 64#8
  tickHz := 48000000
  periodTicks := 60
  duty0Ticks := derivedDuty0 60
  duty1Ticks := derivedDuty1 60
  settleTicks := 3840
  sbitTicks := 60 / 4
  code0Nib := 0b1000#4
  code1Nib := 0b1110#4
  resetBytes := 3840 / (8 * (60 / 4))
  buildTicks := 0
  reinit := .refuse

end Config

/-- One draw of everything hardware reset leaves unspecified (10_state.md rule R50, 93_implementation_defined.md U3, U4).
The lists are the contents of the memories by index from 0. -/
structure ResetDraw where
  brightness : Byte
  period : Half
  dmaPtr : Half
  dmaRem : Half
  dr : Byte
  sr : Byte
  pix : List Pixel
  fba : List Duty
  fbb : List Byte
  deriving DecidableEq, Repr, Inhabited

/-- The draw that `State.reset` names (log entry 5): every register 0, nothing in the memories. -/
def ResetDraw.zero : ResetDraw where
  brightness := 0#8
  period := 0#16
  dmaPtr := 0#16
  dmaRem := 0#16
  dr := 0#8
  sr := 0#8
  pix := []
  fba := []
  fbb := []

/-- FREE VALUE (log entry 7): what a hardware reset in the given tick leaves in the registers and memories whose reset value
R50 does not specify ("a model draws any value of the register's width at reset"). No body: nothing can be proved of it. -/
opaque Config.freeDraw : Nat → ResetDraw

/-- FREE VALUE (log entry 9): what `rsp_data` carries in the given tick while `rsp_valid = 0` (30_encoding.md rule R96: "then
unspecified"). -/
opaque Config.freeRspData : Nat → Word24

end Sys2Proof
end

