-- ==== Sys2Proof/Syntax.lean ====
section
/-! DEFINITION. The instructions: one constructor per row of spec/opcode_table.json. The eight commands and the eight
reserved opcodes are words of the command port (30_encoding.md rules R90 to R95); the ten wire codes are the words of the
two transports' own streams (R104, R105, R110, R113, R114). -/

namespace Sys2Proof

/-- The instructions. A command carries exactly the fields R92 says it reads. -/
inductive Instr where
  /-- `init(strip_handle, pixel_storage, count)` (R131). -/
  | init (h s : Bool) (count : Half)
  /-- `clear(strip_handle)` (R133). -/
  | clear (h : Bool)
  /-- `set_pixel(strip_handle, index, r, g, b)` (R134). -/
  | setPixel (h : Bool) (index : Half) (r g b : Byte)
  /-- `get_pixel(strip_handle, index)` (R135). -/
  | getPixel (h : Bool) (index : Half)
  /-- `set_brightness(strip_handle, value)` (R136). -/
  | setBrightness (h : Bool) (value : Byte)
  /-- `get_brightness(strip_handle)` (R137). -/
  | getBrightness (h : Bool)
  /-- `show(strip_handle)` (R160). -/
  | showFrame (h : Bool)
  /-- `reset(strip_handle)` (R260). -/
  | resetLine (h : Bool)
  /-- Reserved opcode `0x0` (R94). -/
  | reserved0
  /-- Reserved opcode `0x9` (R94). -/
  | reserved9
  /-- Reserved opcode `0xA` (R94). -/
  | reservedA
  /-- Reserved opcode `0xB` (R94). -/
  | reservedB
  /-- Reserved opcode `0xC` (R94). -/
  | reservedC
  /-- Reserved opcode `0xD` (R94). -/
  | reservedD
  /-- Reserved opcode `0xE` (R94). -/
  | reservedE
  /-- Reserved opcode `0xF` (R94). -/
  | reservedF
  /-- `A.GUARD`: the guard duty 0 (R105). -/
  | aGuard
  /-- `A.BIT0`: the duty of a logical 0 (R104). -/
  | aBit0
  /-- `A.BIT1`: the duty of a logical 1 (R104). -/
  | aBit1
  /-- `B.BIT0`: the 4-bit code of a logical 0 (R110). -/
  | bBit0
  /-- `B.BIT1`: the 4-bit code of a logical 1 (R110). -/
  | bBit1
  /-- `B.PAIR00`: the data byte of protocol bits 0, 0 (R114). -/
  | bPair00
  /-- `B.PAIR01`: the data byte of protocol bits 0, 1 (R114). -/
  | bPair01
  /-- `B.PAIR10`: the data byte of protocol bits 1, 0 (R114). -/
  | bPair10
  /-- `B.PAIR11`: the data byte of protocol bits 1, 1 (R114). -/
  | bPair11
  /-- `B.GUARD`: the guard and reset-block byte `0x00` (R113). -/
  | bGuard
  deriving DecidableEq, Repr

end Sys2Proof
end

