-- ==== Sys2Proof/WellFormed.lean ====
section
/-! DEFINITION. Which instructions a block of given parameters can meet: every command and reserved word on every
block (30_encoding.md rules R95, R99), a wire code only on the backend whose code it is (10_state.md: a model built for one
backend holds no state of the other). -/

namespace Sys2Proof

/-- The backend a wire code belongs to; none for a word of the command port. -/
def Instr.backend? : Instr → Option Backend
  | .init _ _ _ | .clear _ | .setPixel _ _ _ _ _ | .getPixel _ _ => none
  | .setBrightness _ _ | .getBrightness _ | .showFrame _ | .resetLine _ => none
  | .reserved0 | .reserved9 | .reservedA | .reservedB => none
  | .reservedC | .reservedD | .reservedE | .reservedF => none
  | .aGuard | .aBit0 | .aBit1 => some .A
  | .bBit0 | .bBit1 | .bPair00 | .bPair01 | .bPair10 | .bPair11 | .bGuard => some .B

/-- The instruction is a word of the command port (R90), not a wire code. -/
def Instr.isCommand (i : Instr) : Bool := i.backend? == none

/-- A wire code is met only on its own backend; a command word anywhere (R95, R99). -/
def Instr.wellFormed (c : Config) (i : Instr) : Bool :=
  match i.backend? with
  | none => true
  | some b => b == c.backend

end Sys2Proof
end

