-- ==== Sys2Proof/Decode.lean ====
section
/-! DEFINITION. The decoder and the encoder of the four formats of 30_encoding.md: `CMD48` (R90), `FBA16` (R108), the
4-bit code (R110) and `FBB8` (R111). A command word always decodes (R95); a duty, nibble or byte that is no code of the
block is rejected by name (R106, R107, R114, R115: undefined there). -/

namespace Sys2Proof

/-! ### The command word -/

/-- The fields of `CMD48` (R90), most significant first. -/
structure CmdFields where
  op : BitVec 4
  h : BitVec 1
  s : BitVec 1
  rsv : BitVec 2
  idx : Half
  r : Byte
  g : Byte
  b : Byte
  deriving DecidableEq, Repr

/-- The field slices of R90's table. -/
def cmdFields (w : CmdWord) : CmdFields where
  op := w.extractLsb' 44 4
  h := w.extractLsb' 43 1
  s := w.extractLsb' 42 1
  rsv := w.extractLsb' 40 2
  idx := w.extractLsb' 24 16
  r := w.extractLsb' 16 8
  g := w.extractLsb' 8 8
  b := w.extractLsb' 0 8

/-- A command word from its fields (R90). -/
def packFields (f : CmdFields) : CmdWord :=
  f.op ++ (f.h ++ (f.s ++ (f.rsv ++ (f.idx ++ (f.r ++ (f.g ++ f.b))))))

/-- A one-bit field read as a truth value. -/
def bitSet (v : BitVec 1) : Bool := v == 1#1

/-- A truth value as a one-bit field. -/
def bitOf (b : Bool) : BitVec 1 := if b then 1#1 else 0#1

/-- The instruction the fields name: selected on `OP` alone, reading the fields R92 lists. -/
def decodeFields (f : CmdFields) : Instr :=
  if f.op = 0x1#4 then .init (bitSet f.h) (bitSet f.s) f.idx
  else if f.op = 0x2#4 then .clear (bitSet f.h)
  else if f.op = 0x3#4 then .setPixel (bitSet f.h) f.idx f.r f.g f.b
  else if f.op = 0x4#4 then .getPixel (bitSet f.h) f.idx
  else if f.op = 0x5#4 then .setBrightness (bitSet f.h) f.b
  else if f.op = 0x6#4 then .getBrightness (bitSet f.h)
  else if f.op = 0x7#4 then .showFrame (bitSet f.h)
  else if f.op = 0x8#4 then .resetLine (bitSet f.h)
  else if f.op = 0x0#4 then .reserved0
  else if f.op = 0x9#4 then .reserved9
  else if f.op = 0xA#4 then .reservedA
  else if f.op = 0xB#4 then .reservedB
  else if f.op = 0xC#4 then .reservedC
  else if f.op = 0xD#4 then .reservedD
  else if f.op = 0xE#4 then .reservedE
  else .reservedF

/-- The decoder of the command port: total, since every word is accepted (R94, R95). -/
def decodeCmd (w : CmdWord) : Instr := decodeFields (cmdFields w)

/-! ### The transports' words -/

/-- `CodeA` (R104): the duty value of a protocol bit. -/
def Config.codeA (c : Config) (bit : Bool) : Duty := BitVec.ofNat 16 (if bit then c.duty1Ticks else c.duty0Ticks)

/-- `CodeB` (R110): the 4-bit code of a protocol bit. -/
def Config.codeB (c : Config) (bit : Bool) : Nibble := if bit then c.code1Nib else c.code0Nib

/-- The data byte of two protocol bits, the earlier in bits 7:4 (R111). -/
def Config.pairB (c : Config) (earlier later : Bool) : Byte := c.codeB earlier ++ c.codeB later

/-- Why a word of a transport's stream is no code: it is named, not given a neighbour's meaning (R106, R114). -/
inductive Reject where
  /-- A duty other than 0, `DUTY0_TICKS`, `DUTY1_TICKS` (R106). -/
  | illegalDuty
  /-- A 4-bit code other than `CODE0_NIB`, `CODE1_NIB` (R115). -/
  | illegalNibble
  /-- A byte other than `0x00` and the four data bytes (R114). -/
  | illegalByte
  deriving DecidableEq, Repr

/-- The duty words of Backend A (R104, R105). -/
def decodeDuty (c : Config) (d : Duty) : Except Reject Instr :=
  if d = 0#16 then .ok .aGuard
  else if d = c.codeA false then .ok .aBit0
  else if d = c.codeA true then .ok .aBit1
  else .error .illegalDuty

/-- The 4-bit codes of Backend B (R110). -/
def decodeNibble (c : Config) (n : Nibble) : Except Reject Instr :=
  if n = c.codeB false then .ok .bBit0
  else if n = c.codeB true then .ok .bBit1
  else .error .illegalNibble

/-- The bytes of Backend B (R113, R114). -/
def decodeByte (c : Config) (y : Byte) : Except Reject Instr :=
  if y = 0#8 then .ok .bGuard
  else if y = c.pairB false false then .ok .bPair00
  else if y = c.pairB false true then .ok .bPair01
  else if y = c.pairB true false then .ok .bPair10
  else if y = c.pairB true true then .ok .bPair11
  else .error .illegalByte

/-- A word of one of the four formats: the command port's, the reader's, the serializer's window, the byte loop's. -/
inductive Code where
  | cmd (w : CmdWord)
  | duty (d : Duty)
  | nibble (n : Nibble)
  | byte (y : Byte)
  deriving DecidableEq, Repr

/-- The decoder, total on every word of every format. -/
def decode (c : Config) : Code → Except Reject Instr
  | .cmd w => .ok (decodeCmd w)
  | .duty d => decodeDuty c d
  | .nibble n => decodeNibble c n
  | .byte y => decodeByte c y

/-! ### The encoder -/

/-- Fields with every unread field 0, as a host sends them (R95). -/
def fieldsOf (op : BitVec 4) (h : Bool) : CmdFields where
  op := op
  h := bitOf h
  s := 0#1
  rsv := 0#2
  idx := 0#16
  r := 0#8
  g := 0#8
  b := 0#8

/-- The command word of the fields, as a word of the command port. -/
def packed (f : CmdFields) : Code := .cmd (packFields f)

/-- The encoder: the opcode and fields of R90 to R92 for a command, the code of R104, R105, R110, R113, R114 for a wire
code. -/
def encode (c : Config) : Instr → Code
  | .init h s n => packed { fieldsOf 0x1#4 h with s := bitOf s, idx := n }
  | .clear h => packed (fieldsOf 0x2#4 h)
  | .setPixel h i r g b => packed { fieldsOf 0x3#4 h with idx := i, r := r, g := g, b := b }
  | .getPixel h i => packed { fieldsOf 0x4#4 h with idx := i }
  | .setBrightness h v => packed { fieldsOf 0x5#4 h with b := v }
  | .getBrightness h => packed (fieldsOf 0x6#4 h)
  | .showFrame h => packed (fieldsOf 0x7#4 h)
  | .resetLine h => packed (fieldsOf 0x8#4 h)
  | .reserved0 => packed (fieldsOf 0x0#4 false)
  | .reserved9 => packed (fieldsOf 0x9#4 false)
  | .reservedA => packed (fieldsOf 0xA#4 false)
  | .reservedB => packed (fieldsOf 0xB#4 false)
  | .reservedC => packed (fieldsOf 0xC#4 false)
  | .reservedD => packed (fieldsOf 0xD#4 false)
  | .reservedE => packed (fieldsOf 0xE#4 false)
  | .reservedF => packed (fieldsOf 0xF#4 false)
  | .aGuard => .duty 0#16
  | .aBit0 => .duty (c.codeA false)
  | .aBit1 => .duty (c.codeA true)
  | .bBit0 => .nibble (c.codeB false)
  | .bBit1 => .nibble (c.codeB true)
  | .bPair00 => .byte (c.pairB false false)
  | .bPair01 => .byte (c.pairB false true)
  | .bPair10 => .byte (c.pairB true false)
  | .bPair11 => .byte (c.pairB true true)
  | .bGuard => .byte 0#8

/-- The opcode field a command or reserved instruction carries (R91); none for a wire code. -/
def opcodeOf : Instr → Option (BitVec 4)
  | .init _ _ _ => some 0x1#4
  | .clear _ => some 0x2#4
  | .setPixel _ _ _ _ _ => some 0x3#4
  | .getPixel _ _ => some 0x4#4
  | .setBrightness _ _ => some 0x5#4
  | .getBrightness _ => some 0x6#4
  | .showFrame _ => some 0x7#4
  | .resetLine _ => some 0x8#4
  | .reserved0 => some 0x0#4
  | .reserved9 => some 0x9#4
  | .reservedA => some 0xA#4
  | .reservedB => some 0xB#4
  | .reservedC => some 0xC#4
  | .reservedD => some 0xD#4
  | .reservedE => some 0xE#4
  | .reservedF => some 0xF#4
  | .aGuard | .aBit0 | .aBit1 | .bBit0 | .bBit1 => none
  | .bPair00 | .bPair01 | .bPair10 | .bPair11 | .bGuard => none

/-! ### The textual form (R97) -/

/-- The handle as text. -/
def handleText (h : Bool) : String := if h then "strip" else "null"

/-- The storage operand as text. -/
def storageText (s : Bool) : String := if s then "mem" else "null"

/-- A call: its operands between parentheses, separated by commas. -/
def callText (name : String) (operands : List String) : String := name ++ "(" ++ String.intercalate ", " operands ++ ")"

/-- The textual form of a command, numbers in decimal (R97); a reserved opcode or a wire code has none. -/
def Instr.text? : Instr → Option String
  | .init h s n => some (callText "init" [handleText h, storageText s, toString n.toNat])
  | .clear h => some (callText "clear" [handleText h])
  | .setPixel h i r g b =>
    some (callText "set_pixel"
      [handleText h, toString i.toNat, toString r.toNat, toString g.toNat, toString b.toNat])
  | .getPixel h i => some (callText "get_pixel" [handleText h, toString i.toNat])
  | .setBrightness h v => some (callText "set_brightness" [handleText h, toString v.toNat])
  | .getBrightness h => some (callText "get_brightness" [handleText h])
  | .showFrame h => some (callText "show" [handleText h])
  | .resetLine h => some (callText "reset" [handleText h])
  | .reserved0 | .reserved9 | .reservedA | .reservedB => none
  | .reservedC | .reservedD | .reservedE | .reservedF => none
  | .aGuard | .aBit0 | .aBit1 | .bBit0 | .bBit1 => none
  | .bPair00 | .bPair01 | .bPair10 | .bPair11 | .bGuard => none

/-! ### The words of spec/opcode_table.json -/

/-- The word of a table row of `nbits` bits: 48 bits a command word, 16 a duty, 8 a byte or, where the value is below 16
and not 0, a 4-bit code in bits 3:0 (log entry 23: no byte of the block lies there). -/
def tableCode (nbits w : Nat) : Option Code :=
  if nbits = 48 then some (.cmd (BitVec.ofNat 48 w))
  else if nbits = 16 then some (.duty (BitVec.ofNat 16 w))
  else if nbits = 8 then
    if 0 < w ∧ w < 16 then some (.nibble (BitVec.ofNat 4 w)) else some (.byte (BitVec.ofNat 8 w))
  else if nbits = 4 then some (.nibble (BitVec.ofNat 4 w))
  else none

/-- What the decoder reads from a word of the table; the wire codes are the table's, at the default parameters (R9). -/
def decodeTableWord (nbits w : Nat) : Option Instr :=
  match tableCode nbits w with
  | none => none
  | some code => (decode (Config.defaults .A) code).toOption

end Sys2Proof
end

