-- ==== Sys2Proof/Machine/State.lean ====
section
/-! DEFINITION. The state of the block as plain data (10_state.md), the reasons a step can stop, and the state after
hardware reset. The registers keep the spec's names and widths. Both backends' registers stand in it; `cfg.backend` says which
the block was built with, and the other's are neither read nor written. -/

namespace Sys2Proof.Machine

/-- `tstate` (R32). -/
inductive TState where
  | idle
  | armed
  | transmitting
  deriving DecidableEq, Repr

/-- `tphase` (R33): which wait the Backend A sequencer is in. -/
inductive TPhase where
  | none
  | preSettle
  | waitTc
  | waitUev
  | postSettle
  | resetSettle
  deriving DecidableEq, Repr

/-- `pin_mode` (R34): what drives `dout` on Backend A. -/
inductive PinMode where
  | gpio
  | pwm
  deriving DecidableEq, Repr

/-- A memory of whole elements (20_memory.md rule R62): pairs of an index and an element, the indices strictly rising and no
element equal to what an unlisted index reads as. With 8-bit elements it is a list of `Host.Cell`. -/
abbrev Store (α : Type) := List (Nat × α)

/-- The strip state (R20): `inited` (R21), `count` (R22), `brightness` (R23), `PIX` (R24). -/
structure Strip where
  inited : Bool
  count : Half
  brightness : Byte
  pix : Store Pixel
  deriving DecidableEq, Repr

/-- The Backend A transport registers (R32 to R40). -/
structure RegsA where
  tstate : TState
  tphase : TPhase
  pinMode : PinMode
  period : Half
  cnt : Half
  pwmEn : Bool
  oe : Bool
  ccrPre : Duty
  ccrAct : Duty
  uif : Bool
  dmaEn : Bool
  dmaReq : Bool
  dmaPtr : Half
  dmaRem : Half
  dmaTc : Bool
  settleCnt : Half
  deriving DecidableEq, Repr

/-- The Backend B transport registers (R42, R43, R46). `sbit_cnt` has "width enough for `SBIT_TICKS − 1`" (R43), so it is a
count and not a word. -/
structure RegsB where
  dr : Byte
  drFull : Bool
  sr : Byte
  srCnt : BitVec 4
  sbitCnt : Nat
  bpos : Half
  blen : Half
  deriving DecidableEq, Repr

/-- What the outside puts on the input ports in one tick (R15, R52): `rst`, `cmd_valid` with `cmd_word`, `stall`. -/
structure PortIn where
  rst : Bool
  cmd : Option CmdWord
  stall : Bool
  deriving DecidableEq, Repr

/-- The state of one block and its surroundings. -/
structure State where
  /-- The parameters the block was built with (R6 to R9, R51): never written (log entry 3). -/
  cfg : Config
  /-- The strip state (R20). -/
  strip : Strip
  /-- The Backend A frame buffer (R29). -/
  fba : Store Duty
  /-- The Backend B frame buffer (R30). -/
  fbb : Store Byte
  /-- `busy` (R28). -/
  busy : Bool
  /-- Ticks left of `BUILD_TICKS` before the transport starts; 0 when none are awaited (R172, log entry 11). -/
  buildCnt : Nat
  /-- `N`, the `count` a `show` sampled when it was accepted (R160): its transport takes its length from this and never reads the
  strip state again (R71, log entry 31). -/
  showN : Half
  /-- The Backend A transport (R32 to R40). -/
  a : RegsA
  /-- The Backend B transport (R42 to R46). -/
  b : RegsB
  /-- The response channel in the tick that comes next (R15, R96): none is `rsp_valid = 0`. -/
  rsp : Option Word24
  /-- The level `dout` had in the tick just ended (R15, R41, R45; log entry 20). -/
  dout : Bool
  /-- The input ports' values in the ticks to come, the next tick's first (log entry 8). -/
  inputs : List PortIn
  /-- `stall` in every tick after the listed ones (R52, log entry 8). -/
  restStall : Bool
  /-- The MODEL's own count of ticks, from which free values are drawn (log entry 26). -/
  ticks : Nat
  deriving DecidableEq, Repr

/-- The reasons the machine stops with a fault. -/
inductive Fault where
  /-- Raised by the reader (`Tick.reader`) and the byte loop (`Tick.byteLoop`) for a frame-buffer index outside the buffer's
  capacity: 20_memory.md rule R62 says no rule ever presents one, so the address does not exist. Safe: the machine stops. -/
  | frameBufferRange
  deriving DecidableEq, Repr

/-- The reasons an instruction has no meaning. -/
inductive Refusal where
  /-- Raised by no arm: every instruction of the table has its meaning. Safe. -/
  | notModelled (mnemonic : String)
  /-- Raised by `init` with valid operands on an initialised strip under `REINIT = refuse` (40_strip_commands.md rule R138: "a
  model refuses it"). Safe. -/
  | secondInit
  /-- Raised by an effective `show`, `reset` or `init` called while `busy = 1` (93_implementation_defined.md U1: "gives a call made
  while `busy = 1` no continuation"). The command port never makes such a call. Safe. -/
  | overlap
  /-- Raised by a wire code of the backend this block was not built with: the unit is absent (10_state.md: a model built for
  `BACKEND = A` holds no Backend B state and the reverse). No step makes such a call. Safe. -/
  | absentBackend
  deriving DecidableEq, Repr

/-- The elements of a list, from index `k` up, that differ from what an unlisted index reads as. -/
def Store.listed {α : Type} [DecidableEq α] (d : α) (k : Nat) : List α → Store α
  | [] => []
  | x :: xs => if x = d then Store.listed d (k + 1) xs else (k, x) :: Store.listed d (k + 1) xs

/-- The Backend A registers after hardware reset (R50); the three it leaves unspecified are drawn. -/
def RegsA.reset (u : ResetDraw) : RegsA where
  tstate := .idle
  tphase := .none
  pinMode := .gpio
  period := u.period
  cnt := 0#16
  pwmEn := false
  oe := false
  ccrPre := 0#16
  ccrAct := 0#16
  uif := false
  dmaEn := false
  dmaReq := false
  dmaPtr := u.dmaPtr
  dmaRem := u.dmaRem
  dmaTc := false
  settleCnt := 0#16

/-- The Backend B registers after hardware reset (R50); the two it leaves unspecified are drawn. -/
def RegsB.reset (u : ResetDraw) : RegsB where
  dr := u.dr
  drFull := false
  sr := u.sr
  srCnt := 0#4
  sbitCnt := 0
  bpos := 0#16
  blen := 0#16

/-- The strip state after hardware reset (R50); `brightness` and `PIX` are drawn, `PIX` as far as the block has entries. -/
def Strip.reset (c : Config) (u : ResetDraw) : Strip where
  inited := false
  count := 0#16
  brightness := u.brightness
  pix := Store.listed Pixel.zero 0 (u.pix.take c.maxLeds)

/-- A block of parameters `c` right after hardware reset with the unspecified contents `u`, nothing on its input ports in the
ticks to come (R50, R310). -/
def State.resetWith (c : Config) (u : ResetDraw) : State where
  cfg := c
  strip := Strip.reset c u
  fba := Store.listed 0#16 0 (u.fba.take c.capA)
  fbb := Store.listed 0#8 0 (u.fbb.take c.capB)
  busy := false
  buildCnt := 0
  showN := 0#16
  a := RegsA.reset u
  b := RegsB.reset u
  rsp := none
  dout := false
  inputs := []
  restStall := false
  ticks := 0

/-- The machine right after reset: a Backend A block with the default parameters (log entry 4), every register whose reset value
the spec leaves unspecified at 0 and nothing in the memories (log entries 5 and 6). -/
def State.reset : State := State.resetWith (Config.defaults .A) ResetDraw.zero

end Sys2Proof.Machine
end

