-- ==== Sys2Proof/Machine/Ops.lean ====
section
/-! DEFINITION. The named operations over the memories and registers that the meanings share: the access primitives of
20_memory.md, the one error response of 60_exceptions.md, the response channel, and the register moves of the two transports. -/

namespace Sys2Proof.Machine

/-- The outcome of one step of this machine. -/
abbrev Result := Host.Outcome State Fault Refusal

/-- Do one thing after another; a fault or refusal ends it. -/
def Result.andThen (o : Result) (f : State → Result) : Result :=
  match o with
  | .next s => f s
  | .fault r => .fault r
  | .refused r => .refused r

/-! ### Memories (R62) -/

/-- The element at index `k`; `d` where none is listed. -/
def Store.read {α : Type} (d : α) : Store α → Nat → α
  | [], _ => d
  | (j, u) :: m, k => if j = k then u else Store.read d m k

/-- Write the element `v` at index `k`, keeping the canonical form. -/
def Store.write {α : Type} [DecidableEq α] (d : α) : Store α → Nat → α → Store α
  | [], k, v => if v = d then [] else [(k, v)]
  | (j, u) :: m, k, v =>
    if k < j then (if v = d then (j, u) :: m else (k, v) :: (j, u) :: m)
    else if k = j then (if v = d then m else (k, v) :: m)
    else (j, u) :: Store.write d m k v

/-- Write the elements of a list at the indices from 0 up; the indices beyond keep their elements. -/
def Store.fill {α : Type} [DecidableEq α] (d : α) (xs : List α) (m : Store α) : Store α :=
  Store.listed d 0 xs ++ m.filter (fun c => decide (xs.length ≤ c.1))

/-- The canonical form from index `k` up: indices strictly rising, no element equal to `d`. -/
def Store.wfFrom {α : Type} [DecidableEq α] (d : α) (k : Nat) : Store α → Bool
  | [] => true
  | (j, u) :: m => decide (k ≤ j) && decide (u ≠ d) && Store.wfFrom d (j + 1) m

/-- Every listed index is below the capacity. -/
def Store.within {α : Type} (cap : Nat) (m : Store α) : Bool := m.all (fun c => decide (c.1 < cap))

/-- The three memories are in canonical form and inside their capacities (R24, R29, R30). -/
def Memory.wf (s : State) : Bool :=
  Store.wfFrom Pixel.zero 0 s.strip.pix && Store.within s.cfg.maxLeds s.strip.pix &&
  Store.wfFrom 0#16 0 s.fba && Store.within s.cfg.capA s.fba &&
  Store.wfFrom 0#8 0 s.fbb && Store.within s.cfg.capB s.fbb

/-- `MemRead(PIX, i, 24)` (R62). -/
def readPix (s : State) (i : Nat) : Pixel := Store.read Pixel.zero s.strip.pix i

/-- `MemRead(FBA, k, 16)` (R62). -/
def readFba (s : State) (k : Nat) : Duty := Store.read 0#16 s.fba k

/-- `MemRead(FBB, k, 8)` (R62). -/
def readFbb (s : State) (k : Nat) : Byte := Store.read 0#8 s.fbb k

/-- `MemWrite(PIX, i, 24, p)` (R62): the three channels in one atomic write (R67). -/
def writePix (i : Nat) (p : Pixel) (s : State) : State :=
  { s with strip := { s.strip with pix := Store.write Pixel.zero s.strip.pix i p } }

/-- `PIX[i] <- (0, 0, 0)` for every `i` below `n`, in one atomic operation (R67, R131, R133). -/
def clearPix (n : Nat) (s : State) : State :=
  { s with strip := { s.strip with pix := Store.fill Pixel.zero (List.replicate n Pixel.zero) s.strip.pix } }

/-! ### Errors and responses -/

/-- `noop`: the one way this block handles an error (60_exceptions.md rules R280, R285: "the call returns without transmitting
or mutating state"). It stands where another machine would take an exception: nothing is saved and control goes nowhere. -/
def noop (s : State) : Result := .next s

/-- `respond(v)` (R13, R96): `v` on the response channel in the tick after. -/
def respond (v : Word24) (s : State) : Result := .next { s with rsp := some v }

/-! ### Backend A registers -/

/-- `Settle()` (42_transport_a.md rule R191): the pin a plain low output, the settle counter loaded. -/
def RegsA.settle (c : Config) (r : RegsA) : RegsA :=
  { r with pinMode := .gpio, settleCnt := BitVec.ofNat 16 c.settleTicks }

/-- `Arm(L)` (R193) with the writes that precede it when the entry settle is over (R190). -/
def RegsA.arm (c : Config) (len : Nat) (r : RegsA) : RegsA :=
  { r with
    tstate := .armed, tphase := .none
    period := BitVec.ofNat 16 c.periodTicks, cnt := 0#16, uif := false
    dmaPtr := 0#16, dmaRem := BitVec.ofNat 16 len, dmaTc := false
    dmaEn := true, dmaReq := true }

/-- `Start()` (R193) with the writes that follow it (R190). -/
def RegsA.start (r : RegsA) : RegsA :=
  { r with pinMode := .pwm, oe := true, pwmEn := true, tstate := .transmitting, tphase := .waitTc }

/-- The sequencer has seen `dma_tc` and begins to wait for one more period boundary (R190, R201 (b)). -/
def RegsA.awaitBoundary (r : RegsA) : RegsA := { r with uif := false, tphase := .waitUev }

/-- The sequencer has seen that boundary: generator and reader off, exit settle begun (R190, R201 (c), (d)). -/
def RegsA.stop (c : Config) (r : RegsA) : RegsA :=
  RegsA.settle c { r with pwmEn := false, oe := false, dmaEn := false, dmaReq := false, tphase := .postSettle }

/-- The exit settle is over (R190, R201 (e)). -/
def RegsA.rest (r : RegsA) : RegsA := { r with tstate := .idle, tphase := .none }

/-- `TransportSetup()` on Backend A (40_strip_commands.md rule R132). -/
def RegsA.setup (c : Config) (r : RegsA) : RegsA :=
  { r with
    period := BitVec.ofNat 16 c.periodTicks, cnt := 0#16, pwmEn := false, oe := false
    ccrPre := 0#16, ccrAct := 0#16, uif := false, dmaEn := false, dmaReq := false, dmaTc := false
    pinMode := .gpio, settleCnt := 0#16, tstate := .idle, tphase := .none }

/-- The reader moves the element `d` to the duty preload (R198): pointer on, remainder down, request served, and
`dma_tc` with the last element (R200). -/
def RegsA.transfer (d : Duty) (r : RegsA) : RegsA :=
  { r with
    ccrPre := d, dmaPtr := r.dmaPtr + 1#16, dmaRem := r.dmaRem - 1#16, dmaReq := false
    dmaTc := r.dmaTc || r.dmaRem - 1#16 == 0#16 }

/-- The generator's actions at a period boundary (R195, R196, R197). -/
def RegsA.boundary (r : RegsA) : RegsA :=
  { r with ccrAct := r.ccrPre, uif := true, dmaReq := r.dmaReq || r.dmaEn }

/-- `cnt <- (cnt + 1) mod period` while the generator runs (R194). -/
def RegsA.count (r : RegsA) : RegsA :=
  if r.pwmEn then { r with cnt := BitVec.ofNat 16 ((r.cnt.toNat + 1) % r.period.toNat) } else r

/-- `settle_cnt` counts down by one per tick to 0 (R191, R202 (5)). -/
def RegsA.settleDown (r : RegsA) : RegsA :=
  if r.settleCnt = 0#16 then r else { r with settleCnt := r.settleCnt - 1#16 }

/-! ### Backend B registers -/

/-- `bpos <- 0; blen <- length(stream)` (43_transport_b.md rule R235). -/
def RegsB.begin (len : Nat) (r : RegsB) : RegsB := { r with bpos := 0#16, blen := BitVec.ofNat 16 len }

/-- `TransportSetup()` on Backend B (R132). -/
def RegsB.setup (r : RegsB) : RegsB :=
  { r with drFull := false, srCnt := 0#4, sbitCnt := 0, bpos := 0#16, blen := 0#16 }

/-- `dr <- y; dr_full <- 1; bpos <- bpos + 1` (R233, R235). -/
def RegsB.send (y : Byte) (r : RegsB) : RegsB := { r with dr := y, drFull := true, bpos := r.bpos + 1#16 }

/-- The serializer's load (R232, first part). -/
def RegsB.load (r : RegsB) : RegsB :=
  if r.srCnt = 0#4 ∧ r.drFull = true then
    { r with sr := r.dr, srCnt := 8#4, sbitCnt := 0, drFull := false }
  else r

/-- The serializer's end of tick (R232, third part). -/
def RegsB.shift (c : Config) (r : RegsB) : RegsB :=
  if r.srCnt = 0#4 then r
  else if r.sbitCnt + 1 = c.sbitTicks then
    { r with sbitCnt := 0, sr := r.sr <<< (1 : Nat), srCnt := r.srCnt - 1#4 }
  else { r with sbitCnt := r.sbitCnt + 1 }

/-- The code `n` at the head of the shift register, bits 7:4, the bits behind it kept. -/
def RegsB.head (n : Nibble) (r : RegsB) : RegsB := { r with sr := n ++ r.sr.extractLsb' 0 4 }

/-! ### The whole block -/

/-- Hardware reset in a tick (70_reset_and_hazards.md rule R310): the whole state takes the values of R50, the unspecified ones
drawn as free values; the parameters, the inputs to come and the tick count are not state of the block. -/
def hardwareReset (s : State) : State :=
  { State.resetWith s.cfg (Config.freeDraw s.ticks) with
    inputs := s.inputs, restStall := s.restStall, ticks := s.ticks }

end Sys2Proof.Machine
end

