-- ==== Sys2Proof/Machine/Reserved.lean ====
section
/-! DEFINITION. The meanings of the eight reserved opcodes: "The block accepts the word and does nothing" (30_encoding.md rule
R94). -/

namespace Sys2Proof.Machine

/-- Opcode `0x0` (R94). -/
def execReserved0 (s : State) : Result := noop s

/-- Opcode `0x9` (R94). -/
def execReserved9 (s : State) : Result := noop s

/-- Opcode `0xA` (R94). -/
def execReservedA (s : State) : Result := noop s

/-- Opcode `0xB` (R94). -/
def execReservedB (s : State) : Result := noop s

/-- Opcode `0xC` (R94). -/
def execReservedC (s : State) : Result := noop s

/-- Opcode `0xD` (R94). -/
def execReservedD (s : State) : Result := noop s

/-- Opcode `0xE` (R94). -/
def execReservedE (s : State) : Result := noop s

/-- Opcode `0xF` (R94). -/
def execReservedF (s : State) : Result := noop s

end Sys2Proof.Machine
end

