-- ==== Sys2Proof/Machine/Flags.lean ====
section
/-! DEFINITION. The flags and output levels that are functions of the state (10_state.md rules R41, R42, R44, R45, R47;
00_scope.md rule R15; the wait conditions of 42_transport_a.md and 43_transport_b.md). -/

namespace Sys2Proof.Machine

/-- `cmd_ready = not busy` (R15, R28). -/
def cmdReady (s : State) : Bool := !s.busy

/-- `rsp_valid` in the tick that comes next (R96). -/
def rspValid (s : State) : Bool := s.rsp.isSome

/-- `rsp_data` in the tick that comes next; a free value while `rsp_valid = 0` (R96). -/
def rspData (s : State) : Word24 := s.rsp.getD (Config.freeRspData s.ticks)

/-- `txe = not dr_full` (R42, R234). -/
def txe (r : RegsB) : Bool := !r.drFull

/-- `spi_tc`: nothing left to send (R44, R234). -/
def spiTc (r : RegsB) : Bool := r.srCnt == 0#4 && !r.drFull

/-- A period boundary: the generator runs and is at the first tick of a period (R195). -/
def atBoundary (r : RegsA) : Bool := r.pwmEn && r.cnt == 0#16

/-- The running settle is over (R191). -/
def settled (r : RegsA) : Bool := r.settleCnt == 0#16

/-- `dout` on Backend A (R41). -/
def doutA (r : RegsA) : Bool := r.pinMode == .pwm && r.oe && r.pwmEn && decide (r.cnt < r.ccrAct)

/-- `dout` on Backend B (R45). -/
def doutB (r : RegsB) : Bool := r.srCnt != 0#4 && r.sr.getLsbD 7

/-- The output level of the block as a function of its state (R41, R45). -/
def doutOf (s : State) : Bool :=
  match s.cfg.backend with
  | .A => doutA s.a
  | .B => doutB s.b

/-- The serializer is at the first tick of a 4-bit code window (R116). -/
def windowStart (r : RegsB) : Bool := (r.srCnt == 8#4 || r.srCnt == 4#4) && r.sbitCnt == 0

end Sys2Proof.Machine
end

