-- ==== Sys2Proof/Machine/Operands.lean ====
section
/-! DEFINITION. The operand forms: how a command's operands select what it acts on, and the validity tests whose failing arm
is `noop` (30_encoding.md rule R93, 40_strip_commands.md rules R130, R131, R134, R135, 41_frame_encoder.md rule R161, R177). -/

namespace Sys2Proof.Machine

/-- The number of live pixels as the operations see it: `count`, or none where `count` exceeds the maximum, which no run
reaches (10_state.md rule R25; 93_implementation_defined.md U9: "every operation falls into a no-op or zero-answer case"). -/
def liveCount (s : State) : Nat := if s.strip.count.toNat ≤ s.cfg.maxLeds then s.strip.count.toNat else 0

/-- `index < count`, the one bound on an index (R69, R134, R135). -/
def indexLive (i : Half) (s : State) : Bool := decide (i.toNat < liveCount s)

/-- The operands of `init` are valid (R131, R281). -/
def initValid (h st : Bool) (n : Half) (s : State) : Bool :=
  h && st && n != 0#16 && decide (n.toNat ≤ s.cfg.maxLeds)

/-- A `show` passes validation (R160, R161). -/
def showValid (h : Bool) (s : State) : Bool := h && decide (0 < liveCount s)

/-- A pixel's channels as a response word: `r ‖ g ‖ b` (R96). -/
def rspOfPixel (p : Pixel) : Word24 := p.r ++ p.g ++ p.b

/-- A byte as a response word: `zext_24` (R96). -/
def rspOfByte (v : Byte) : Word24 := v.setWidth 24

end Sys2Proof.Machine
end

