-- ==== Sys2Proof/Machine/Encoder.lean ====
section
/-! DEFINITION. The frame encoder (41_frame_encoder.md rules R162 to R168, R173) and the wire format (30_encoding.md rules
R100 to R118): brightness scaling, wire order, bit order, the codes and the layout of both frame buffers, and their decoding. -/

namespace Sys2Proof.Machine

/-- `Scale(v, s) = (v × s + 127) / 255` (R162): exact, so nothing wraps. -/
def scale (v s : Byte) : Byte := BitVec.ofNat 8 ((v.toNat * s.toNat + 127) / 255)

/-- A pixel's channels as they are sent (R163): scaled unless the brightness is full. -/
def scaled (s : Byte) (p : Pixel) : Pixel :=
  if s = 255#8 then p else { r := scale p.r s, g := scale p.g s, b := scale p.b s }

/-- `W24 = g' ‖ r' ‖ b'` (R101, R165). -/
def wireWord (p : Pixel) : Word24 := p.g ++ p.r ++ p.b

/-- `pb(i, j) = W24(i)[23 − j]` (R102, R166): bit `j` in time order. -/
def protocolBit (w : Word24) (j : Nat) : Bool := w.getLsbD (23 - j)

/-- The 24 protocol bits of one LED, the first sent first. -/
def pixelBits (s : Byte) (p : Pixel) : List Bool :=
  (List.range 24).map (protocolBit (wireWord (scaled s p)))

/-- `FrameBits(N, s, PIX)` (R103, R173). -/
def frameBits (n : Nat) (s : Byte) (pix : Store Pixel) : List Bool :=
  (List.range n).flatMap (fun i => pixelBits s (Store.read Pixel.zero pix i))

/-- The data slots of one LED on Backend A (R167). -/
def pixelDuties (c : Config) (s : Byte) (p : Pixel) : List Duty := (pixelBits s p).map c.codeA

/-- The data bytes of one LED on Backend B (R168): byte `q` carries protocol bits `2q` and `2q + 1`. -/
def pixelBytes (c : Config) (s : Byte) (p : Pixel) : List Byte :=
  (List.range 12).map (fun q =>
    c.pairB (protocolBit (wireWord (scaled s p)) (2 * q)) (protocolBit (wireWord (scaled s p)) (2 * q + 1)))

/-- The used part of `FBA` after `BuildA(N)` (R108, R167). -/
def frameA (c : Config) (n : Nat) (s : Byte) (pix : Store Pixel) : List Duty :=
  0#16 :: ((List.range n).flatMap (fun i => pixelDuties c s (Store.read Pixel.zero pix i)) ++ [0#16])

/-- The used part of `FBB` after `BuildB(N)` (R112, R168). -/
def frameB (c : Config) (n : Nat) (s : Byte) (pix : Store Pixel) : List Byte :=
  0#8 :: ((List.range n).flatMap (fun i => pixelBytes c s (Store.read Pixel.zero pix i)) ++ [0#8])

/-- `BuildA(count)` or `BuildB(count)`: one atomic function of the strip state (R71, R167, R168). -/
def build (s : State) : State :=
  match s.cfg.backend with
  | .A => { s with fba := Store.fill 0#16 (frameA s.cfg s.strip.count.toNat s.strip.brightness s.strip.pix) s.fba }
  | .B => { s with fbb := Store.fill 0#8 (frameB s.cfg s.strip.count.toNat s.strip.brightness s.strip.pix) s.fbb }

/-! ### Decoding (R107, R115, R118) -/

/-- What a duty value of `FBA` carries (R107). -/
inductive SlotKind where
  | bit (v : Bool)
  | guard
  | undefined
  deriving DecidableEq, Repr

/-- `DecA` (R107). -/
def decA (c : Config) (d : Duty) : SlotKind :=
  if d = c.codeA false then .bit false
  else if d = c.codeA true then .bit true
  else if d = 0#16 then .guard
  else .undefined

/-- `DecB` (R115); none where it is undefined. -/
def decB (c : Config) (n : Nibble) : Option Bool :=
  if n = c.codeB false then some false else if n = c.codeB true then some true else none

/-- The protocol bit at global position `m` of the buffer of a Backend B block (R115): the high nibble of byte `1 + m/2` for even
`m`, the low nibble for odd `m`. -/
def bitOfFbb (s : State) (m : Nat) : Option Bool :=
  decB s.cfg (if m % 2 = 0 then (readFbb s (1 + m / 2)).extractLsb' 4 4 else (readFbb s (1 + m / 2)).extractLsb' 0 4)

/-- One Backend A bit period with duty `d`: `P(d) = H^d · L^(PERIOD_TICKS − d)` (R14, R109). -/
def periodLine (c : Config) (d : Nat) : List Bool := List.replicate d true ++ List.replicate (c.periodTicks - d) false

/-- One Backend B code window: `Q(c)` (R14): four runs of `SBIT_TICKS` ticks, bit 3 first. -/
def windowLine (c : Config) (n : Nibble) : List Bool :=
  [3, 2, 1, 0].flatMap (fun i => List.replicate c.sbitTicks (n.getLsbD i))

/-- The length of the first high run of a window (R118). -/
def highRun : List Bool → Nat
  | true :: l => highRun l + 1
  | _ => 0

/-- The test discriminator (R118): none where the window does not start high. -/
def discriminate (w : List Bool) : Option Bool :=
  if highRun w = 0 then none else some (decide (w.length ≤ 2 * highRun w))

/-- One bit period on the line (R118): `PERIOD_TICKS` on Backend A, `4 × SBIT_TICKS` on Backend B. -/
def windowTicks (c : Config) : Nat :=
  match c.backend with
  | .A => c.periodTicks
  | .B => 4 * c.sbitTicks

/-- The first `n` consecutive windows of `w` ticks of a trace (R118). -/
def windows (w : Nat) : Nat → List Bool → List (List Bool)
  | 0, _ => []
  | n + 1, l => l.take w :: windows w n (l.drop w)

/-- The bits of `n` consecutive windows of `w` ticks; none where one of them does not start high (R118). -/
def decodeWindows (w n : Nat) (l : List Bool) : Option (List Bool) := (windows w n l).mapM discriminate

/-- Where the data part of a `show`'s trace begins, counted from the tick the `show` is accepted: after the build, the entry settle, the
tick `Ta` and the leading guard period (R172, R204), or the leading reset block and guard byte (R238). -/
def dataStart (c : Config) : Nat :=
  match c.backend with
  | .A => c.buildTicks + (c.settleTicks + 1 + c.periodTicks)
  | .B => c.buildTicks + (c.resetBytes + 1) * (8 * c.sbitTicks)

/-- The protocol bits on the line of a `show` of `n` LEDs, read off its trace: the data part cut into windows of one bit period, each
read by the discriminator (R117, R118). -/
def decodeLine (c : Config) (n : Nat) (trace : List Bool) : Option (List Bool) :=
  decodeWindows (windowTicks c) (24 * n) (trace.drop (dataStart c))

/-- The parameters put the two shapes of a bit on the two sides of the discriminator (R118), as the defaults do. -/
def discriminable (c : Config) : Bool :=
  match c.backend with
  | .A => decide (2 * c.duty0Ticks < c.periodTicks) && decide (c.periodTicks ≤ 2 * c.duty1Ticks)
  | .B => c.code0Nib == 0b1000#4

end Sys2Proof.Machine
end

