-- ==== Sys2Proof/Machine/Transport.lean ====
section
/-! DEFINITION. What the sequencer does when an operation starts and while it waits (42_transport_a.md rules R190 to R193, R201;
43_transport_b.md rules R231, R235; 44_reset_latch.md rules R261, R262; 41_frame_encoder.md rule R172), and the generator's and
the serializer's parts of a tick. -/

namespace Sys2Proof.Machine

/-- The first writes of `TransportA` or `TransportB_show`, for the sampled `N` (R71, R190, R231, R235). -/
def startTransport (s : State) : State :=
  match s.cfg.backend with
  | .A => { s with a := RegsA.settle s.cfg { s.a with tphase := .preSettle } }
  | .B => { s with b := s.b.begin (s.cfg.showLen s.showN.toNat) }

/-- A valid `show` in the tick it is accepted (R160): busy, the strip state sampled once (`N` kept, brightness and pixels in the frame
that is built, R71), and the transport started or, where the build takes `BUILD_TICKS` ticks, awaited (R172). -/
def beginShow (s : State) : State :=
  let built := build { s with busy := true, showN := s.strip.count }
  if s.cfg.buildTicks = 0 then startTransport built else { built with buildCnt := s.cfg.buildTicks }

/-- An effective `reset` in the tick it is accepted (R260 to R262). -/
def beginReset (s : State) : State :=
  match s.cfg.backend with
  | .A => { s with busy := true, a := RegsA.settle s.cfg { s.a with tphase := .resetSettle } }
  | .B => { s with busy := true, b := s.b.begin s.cfg.resetBytes }

/-- `TransportSetup()` (R132). -/
def transportSetup (s : State) : State :=
  match s.cfg.backend with
  | .A => { s with a := s.a.setup s.cfg }
  | .B => { s with b := s.b.setup }

/-- The Backend A sequencer at the start of a tick: one wait condition tested on the state as the last tick left it, and the
writes up to the next wait (R190, R202 (1)); the reader is armed on a frame of the sampled `N` (R71, R193). -/
def sequencerA (s : State) : State :=
  match s.a.tphase with
  | .none => if s.a.tstate = .armed then { s with a := s.a.start } else s
  | .preSettle => if settled s.a then { s with a := s.a.arm s.cfg (Config.lenA s.showN.toNat) } else s
  | .waitTc => if s.a.dmaTc then { s with a := s.a.awaitBoundary } else s
  | .waitUev => if s.a.uif then { s with a := s.a.stop s.cfg } else s
  | .postSettle => if settled s.a then { s with a := s.a.rest, busy := false } else s
  | .resetSettle => if settled s.a then { s with a := { s.a with tphase := .none }, busy := false } else s

/-- The Backend B sequencer's last wait: `busy` falls when the stream is written and `spi_tc` is seen (R235, R236). -/
def sequencerB (s : State) : State :=
  if s.b.bpos = s.b.blen ∧ spiTc s.b = true then { s with busy := false } else s

/-- The ticks between the acceptance of a `show` and the start of its transport (R172). -/
def awaitBuild (s : State) : State :=
  if s.buildCnt = 1 then startTransport { s with buildCnt := 0 } else { s with buildCnt := s.buildCnt - 1 }

/-- The sequencer at the start of a tick (R202 (1), R236 (1)). -/
def sequencer (s : State) : State :=
  if s.busy then
    if s.buildCnt = 0 then
      match s.cfg.backend with
      | .A => sequencerA s
      | .B => sequencerB s
    else awaitBuild s
  else s

/-- The byte loop may write `dr` in this tick (R233, R235). -/
def sending (s : State) : Bool :=
  s.busy && s.buildCnt == 0 && s.cfg.backend == .B && decide (s.b.bpos < s.b.blen) && txe s.b

/-- The index in `FBB` of stream position `bpos`; none in a reset block, whose bytes are zero and not stored (R231, R235). -/
def streamIndex (s : State) : Option Nat :=
  if s.cfg.resetBytes ≤ s.b.bpos.toNat ∧ s.b.bpos.toNat + s.cfg.resetBytes < s.b.blen.toNat then
    some (s.b.bpos.toNat - s.cfg.resetBytes)
  else none

/-- The generator's actions at the start of a period, on Backend A (R195, R202 (2)). -/
def generator (s : State) : State := if atBoundary s.a then { s with a := s.a.boundary } else s

/-- `dout` takes its value for the tick, and the counters of Backend A advance (R202 (4), (5)). -/
def endTickA (s : State) : State := { s with dout := doutA s.a, a := s.a.count.settleDown }

/-- `dout` takes its value for the tick, and the serializer advances (R232, R236 (3), (4)). -/
def endTickB (s : State) : State := { s with dout := doutB s.b, b := s.b.shift s.cfg }

end Sys2Proof.Machine
end

