-- ==== Sys2Proof/Machine/Strip.lean ====
section
/-! DEFINITION. The meanings of the six strip-state commands (40_strip_commands.md). -/

namespace Sys2Proof.Machine

/-- What a successful `init` writes (R131, R132). -/
def bindStrip (n : Half) (s : State) : State :=
  let cleared := clearPix n.toNat s
  transportSetup { cleared with
    strip := { cleared.strip with inited := true, count := n, brightness := s.cfg.defaultBrightness } }

/-- A valid `init` on an initialised strip (R138), by the parameter `REINIT`. -/
def secondInit (n : Half) (s : State) : Result :=
  match s.cfg.reinit with
  | .refuse => .refused .secondInit
  | .ignore => noop s
  | .rebind => if s.busy then .refused .overlap else .next (bindStrip n s)

/-- `init` (R131). -/
def execInit (h st : Bool) (n : Half) (s : State) : Result :=
  if initValid h st n s then
    if s.strip.inited then secondInit n s
    else if s.busy then .refused .overlap
    else .next (bindStrip n s)
  else noop s

/-- `clear` (R133). -/
def execClear (h : Bool) (s : State) : Result :=
  if h then .next (clearPix (liveCount s) s) else noop s

/-- `set_pixel` (R134). -/
def execSetPixel (h : Bool) (i : Half) (r g b : Byte) (s : State) : Result :=
  if h && indexLive i s then .next (writePix i.toNat { r := r, g := g, b := b } s) else noop s

/-- `get_pixel` (R135). -/
def execGetPixel (h : Bool) (i : Half) (s : State) : Result :=
  if h && indexLive i s then respond (rspOfPixel (readPix s i.toNat)) s else respond (rspOfPixel Pixel.zero) s

/-- `set_brightness` (R136). -/
def execSetBrightness (h : Bool) (v : Byte) (s : State) : Result :=
  if h then .next { s with strip := { s.strip with brightness := v } } else noop s

/-- `get_brightness` (R137). -/
def execGetBrightness (h : Bool) (s : State) : Result :=
  if h then respond (rspOfByte s.strip.brightness) s else respond (rspOfByte 0#8) s

end Sys2Proof.Machine
end

