-- ==== Sys2Proof/Machine/Transmit.lean ====
section
/-! DEFINITION. The meanings of the two blocking commands, in the tick they are accepted: `show` (41_frame_encoder.md rules R160,
R161) and `reset` (44_reset_latch.md rule R260). The ticks that follow are `sequencer`'s and the transports'. -/

namespace Sys2Proof.Machine

/-- `show` (R160, R161). A call made while `busy = 1` has no continuation (93_implementation_defined.md U1). -/
def execShow (h : Bool) (s : State) : Result :=
  if showValid h s then (if s.busy then .refused .overlap else .next (beginShow s)) else noop s

/-- `reset` (R260). A call made while `busy = 1` has no continuation (U1). -/
def execReset (h : Bool) (s : State) : Result :=
  if h && s.strip.inited then (if s.busy then .refused .overlap else .next (beginReset s)) else noop s

end Sys2Proof.Machine
end

