-- ==== Sys2Proof/Machine/WireCodes.lean ====
section
/-! DEFINITION. The meanings of the ten wire codes (log entry 2): what the transport does in the tick it takes the code from its
stream. A duty is moved by the reader to the preload (42_transport_a.md rule R198); a byte is written by the byte loop to the data
register (43_transport_b.md rule R233); a 4-bit code at the head of the shift register is put on the line, its first tick now (R116,
R232). -/

namespace Sys2Proof.Machine

/-- The reader's transfer of a duty value, legal or not: the rule is total (R198, 93_implementation_defined.md U8). -/
def moveDuty (d : Duty) (s : State) : State := { s with a := s.a.transfer d }

/-- The byte loop's write of a byte: the serializer sends any byte (R232, R233, U8). -/
def writeByte (y : Byte) (s : State) : State := { s with b := s.b.send y }

/-- The tick in which the serializer puts the first bit-time of the code `n` on the line (R116, R232). -/
def playNibble (n : Nibble) (s : State) : State := endTickB { s with b := s.b.head n }

/-- A Backend A code on a Backend A block. -/
def onA (f : State → State) (s : State) : Result :=
  match s.cfg.backend with
  | .A => .next (f s)
  | .B => .refused .absentBackend

/-- A Backend B code on a Backend B block. -/
def onB (f : State → State) (s : State) : Result :=
  match s.cfg.backend with
  | .A => .refused .absentBackend
  | .B => .next (f s)

/-- `A.GUARD` (R105). -/
def execAGuard (s : State) : Result := onA (moveDuty 0#16) s

/-- `A.BIT0` (R104). -/
def execABit0 (s : State) : Result := onA (moveDuty (s.cfg.codeA false)) s

/-- `A.BIT1` (R104). -/
def execABit1 (s : State) : Result := onA (moveDuty (s.cfg.codeA true)) s

/-- `B.BIT0` (R110). -/
def execBBit0 (s : State) : Result := onB (playNibble (s.cfg.codeB false)) s

/-- `B.BIT1` (R110). -/
def execBBit1 (s : State) : Result := onB (playNibble (s.cfg.codeB true)) s

/-- `B.PAIR00` (R114). -/
def execBPair00 (s : State) : Result := onB (writeByte (s.cfg.pairB false false)) s

/-- `B.PAIR01` (R114). -/
def execBPair01 (s : State) : Result := onB (writeByte (s.cfg.pairB false true)) s

/-- `B.PAIR10` (R114). -/
def execBPair10 (s : State) : Result := onB (writeByte (s.cfg.pairB true false)) s

/-- `B.PAIR11` (R114). -/
def execBPair11 (s : State) : Result := onB (writeByte (s.cfg.pairB true true)) s

/-- `B.GUARD` (R113). -/
def execBGuard (s : State) : Result := onB (writeByte 0#8) s

end Sys2Proof.Machine
end

