-- ==== Sys2Proof/Machine/Dispatch.lean ====
section
/-! DEFINITION. The dispatch of each instruction to its meaning: the effect of a command in the tick it is accepted, of a wire
code in the tick its transport takes it. -/

namespace Sys2Proof.Machine

def exec (i : Instr) (s : State) : Host.Outcome State Fault Refusal :=
  match i with
  | .init h st n => Sys2Proof.Machine.execInit h st n s
  | .clear h => Sys2Proof.Machine.execClear h s
  | .setPixel h idx r g b => Sys2Proof.Machine.execSetPixel h idx r g b s
  | .getPixel h idx => Sys2Proof.Machine.execGetPixel h idx s
  | .setBrightness h v => Sys2Proof.Machine.execSetBrightness h v s
  | .getBrightness h => Sys2Proof.Machine.execGetBrightness h s
  | .showFrame h => Sys2Proof.Machine.execShow h s
  | .resetLine h => Sys2Proof.Machine.execReset h s
  | .reserved0 => Sys2Proof.Machine.execReserved0 s
  | .reserved9 => Sys2Proof.Machine.execReserved9 s
  | .reservedA => Sys2Proof.Machine.execReservedA s
  | .reservedB => Sys2Proof.Machine.execReservedB s
  | .reservedC => Sys2Proof.Machine.execReservedC s
  | .reservedD => Sys2Proof.Machine.execReservedD s
  | .reservedE => Sys2Proof.Machine.execReservedE s
  | .reservedF => Sys2Proof.Machine.execReservedF s
  | .aGuard => Sys2Proof.Machine.execAGuard s
  | .aBit0 => Sys2Proof.Machine.execABit0 s
  | .aBit1 => Sys2Proof.Machine.execABit1 s
  | .bBit0 => Sys2Proof.Machine.execBBit0 s
  | .bBit1 => Sys2Proof.Machine.execBBit1 s
  | .bPair00 => Sys2Proof.Machine.execBPair00 s
  | .bPair01 => Sys2Proof.Machine.execBPair01 s
  | .bPair10 => Sys2Proof.Machine.execBPair10 s
  | .bPair11 => Sys2Proof.Machine.execBPair11 s
  | .bGuard => Sys2Proof.Machine.execBGuard s

end Sys2Proof.Machine
end

