-- ==== Sys2Proof/Machine/Tick.lean ====
section
/-! DEFINITION. One tick of the clock: the agents' steps in the order of 42_transport_a.md rule R202 and 43_transport_b.md rule R236,
the command port (00_scope.md rule R15) and hardware reset (70_reset_and_hazards.md rule R310) before them. An instruction runs in a
tick where its word is taken: a command word from the port, a duty by the reader, a byte by the byte loop, a 4-bit code by the
serializer. -/

namespace Sys2Proof.Machine

/-- The input ports in the tick that begins (R15, R52): the first listed values, or none and the standing `stall`. -/
def nextInput (s : State) : PortIn :=
  match s.inputs with
  | [] => { rst := false, cmd := none, stall := s.restStall }
  | p :: _ => p

/-- The tick begins: its inputs are taken, and the response of the tick before has had its one tick (R96). -/
def beginTick (s : State) : State := { s with inputs := s.inputs.tail, rsp := none, ticks := s.ticks + 1 }

/-- The command port (R15): a word presented while `cmd_ready = 1` is accepted and executed. -/
def acceptCommand (w : Option CmdWord) (s : State) : Result :=
  match w with
  | none => .next s
  | some word => if cmdReady s then exec (decodeCmd word) s else .next s

/-- The reader takes the duty `d`. -/
def takeDuty (d : Duty) (s : State) : Result :=
  match decodeDuty s.cfg d with
  | .ok i => exec i s
  | .error _ => .next (moveDuty d s)

/-- The byte loop takes the byte `y`. -/
def takeByte (y : Byte) (s : State) : Result :=
  match decodeByte s.cfg y with
  | .ok i => exec i s
  | .error _ => .next (writeByte y s)

/-- The serializer takes the 4-bit code `n`. -/
def takeNibble (n : Nibble) (s : State) : Result :=
  match decodeNibble s.cfg n with
  | .ok i => exec i s
  | .error _ => .next (endTickB s)

/-- The reader's step (R198). -/
def reader (stall : Bool) (s : State) : Result :=
  if s.a.dmaEn && s.a.dmaReq then
    if s.a.dmaRem = 0#16 then .next { s with a := { s.a with dmaReq := false } }
    else if stall then .next s
    else if s.a.dmaPtr.toNat < s.cfg.capA then takeDuty (readFba s s.a.dmaPtr.toNat) s
    else .fault .frameBufferRange
  else .next s

/-- The byte loop's step (R235): at most one write of `dr`. -/
def byteLoop (s : State) : Result :=
  if sending s then
    match streamIndex s with
    | none => takeByte 0#8 s
    | some k => if k < s.cfg.capB then takeByte (readFbb s k) s else .fault .frameBufferRange
  else .next s

/-- The serializer's load (R236 (2)). -/
def loadB (s : State) : State := { s with b := s.b.load }

/-- The serializer's output and end of tick (R236 (3), (4)); in the first tick of a window the code at the head of the shift
register is taken as a word of its own. -/
def serialize (s : State) : Result :=
  if windowStart s.b then takeNibble (s.b.sr.extractLsb' 4 4) s else .next (endTickB s)

/-- The autonomous agents of a Backend A block in one tick (R202 (2) to (5)). -/
def agentsA (stall : Bool) (s : State) : Result :=
  (reader stall (generator s)).andThen (fun t => .next (endTickA t))

/-- The byte loop and the serializer of a Backend B block in one tick (R236). -/
def agentsB (s : State) : Result := (byteLoop s).andThen (fun t => serialize (loadB t))

/-- Everything in a tick after the command port. -/
def agents (stall : Bool) (s : State) : Result :=
  match s.cfg.backend with
  | .A => agentsA stall s
  | .B => agentsB s

/-- One tick (R202, R236, R310). -/
def tick (s : State) : Result :=
  if (nextInput s).rst then .next (hardwareReset (beginTick s))
  else (acceptCommand (nextInput s).cmd (sequencer (beginTick s))).andThen (agents (nextInput s).stall)

/-- The block with no operation in progress: not busy, the sequencer waiting for nothing. -/
def quiesce (s : State) : State :=
  { s with busy := false, buildCnt := 0, a := { s.a with tstate := .idle, tphase := .none } }

/-- The input ports in the next tick: the given command word or none, no reset, no stall. -/
def present (w : Option CmdWord) (s : State) : State :=
  { s with inputs := { rst := false, cmd := w, stall := false } :: s.inputs }

/-- Where each kind of word is taken from in the next tick (log entry 21). A command word: the port. A duty: `FBA[0]`, the reader
armed with a request and one element to move. A byte: `FBB[0]`, the byte loop at the first position after the leading reset block. A
4-bit code: the head of the shift register, at the start of a window. -/
def placeCode (code : Code) (s : State) : State :=
  match code with
  | .cmd w => present (some w) (quiesce s)
  | .duty d =>
    let q := quiesce s
    present none { q with
      cfg := { q.cfg with backend := .A }
      fba := Store.write 0#16 q.fba 0 d
      a := { q.a with dmaEn := true, dmaReq := true, dmaPtr := 0#16, dmaRem := 1#16 } }
  | .byte y =>
    let q := quiesce s
    present none { q with
      cfg := { q.cfg with backend := .B }
      busy := true
      fbb := Store.write 0#8 q.fbb 0 y
      b := { q.b with
        drFull := false, bpos := BitVec.ofNat 16 q.cfg.resetBytes, blen := BitVec.ofNat 16 (q.cfg.showLen 1) } }
  | .nibble n =>
    let q := quiesce s
    present none { q with
      cfg := { q.cfg with backend := .B }
      b := { q.b with drFull := false, sr := n ++ 0#4, srCnt := 4#4, sbitCnt := 0 } }

/-- The state in which the next tick takes the word of a table row; unchanged where the row's width is none of the formats'. -/
def placeTableWord (s : State) (nbits w : Nat) : State :=
  match tableCode nbits w with
  | none => s
  | some code => placeCode code s

end Sys2Proof.Machine
end

