-- ==== Sys2Proof/Machine/Step.lean ====
section
/-! DEFINITION. The step of the machine: one tick of the clock. -/

namespace Sys2Proof.Machine

/-- One step is one tick (log entry 1). -/
def step (s : State) : Host.Outcome State Fault Refusal := tick s

/-- The state whose next step takes the given word of the table and runs it (log entry 21). -/
def State.withFetchWord (s : State) (nbits w : Nat) : State := placeTableWord s nbits w

end Sys2Proof.Machine
end

