-- ==== Sys2Proof/Safety.lean ====
section
/-! DEFINITION. What counts as a safe state and a run of the block, in the terms the statements use: the invariants of the strip
state (10_state.md rule R25), of the memories, of the two transports, and the levels the line takes over a run (00_scope.md rule
R14). -/

namespace Sys2Proof.Machine

/-! ### Runs -/

/-- The input ports' values `j` ticks from now (R15, R52). -/
def inputAt (s : State) (j : Nat) : PortIn := s.inputs.getD j { rst := false, cmd := none, stall := s.restStall }

/-- In none of the next `k` ticks is the block reset. -/
def noRst (k : Nat) (s : State) : Prop := ∀ j, j < k → (inputAt s j).rst = false

/-- In none of the next `k` ticks does the reader stall: "normal operation" (R52). -/
def noStall (k : Nat) (s : State) : Prop := ∀ j, j < k → (inputAt s j).stall = false

/-- In each of the next `k` ticks the reader stalls (R205). -/
def allStall (k : Nat) (s : State) : Prop := ∀ j, j < k → (inputAt s j).stall = true

/-- The state after `k` ticks. -/
def after (k : Nat) (s : State) : Result := Host.Core.run Sys2Proof.core k s

/-- The levels of `dout` in the next `k` ticks, the first first; shorter where the run stops. -/
def lineTrace : Nat → State → List Bool
  | 0, _ => []
  | k + 1, s =>
    match step s with
    | .next t => t.dout :: lineTrace k t
    | .fault _ => []
    | .refused _ => []

/-- `L^n` (R14). -/
def low (n : Nat) : List Bool := List.replicate n false

/-- The tick that begins now finds the last operation ended: `cmd_ready` rises in it (R15, R28). -/
def readyNow (s : State) : Bool := cmdReady (sequencer (beginTick s))

/-- The command accepted in the tick that begins now, if any (R15): a word is presented, the block is ready and is not being reset. -/
def acceptedNow (s : State) : Option Instr :=
  if (nextInput s).rst then none else if readyNow s then (nextInput s).cmd.map decodeCmd else none

/-- The instructions of a list one after another, as calls (R70). -/
def execAll : List Instr → State → Result
  | [], s => .next s
  | i :: is, s => Result.andThen (exec i s) (execAll is)

/-- The six strip-state operations (40_strip_commands.md rule R130). -/
def isStripOp : Instr → Bool
  | .init _ _ _ | .clear _ | .setPixel _ _ _ _ _ | .getPixel _ _ | .setBrightness _ _ | .getBrightness _ => true
  | _ => false

/-- `init` (R131). -/
def isInit : Instr → Bool
  | .init _ _ _ => true
  | _ => false

/-- The operations that write pixels (R24): `init`, `clear`, `set_pixel`. -/
def writesPixels : Instr → Bool
  | .init _ _ _ | .clear _ | .setPixel _ _ _ _ _ => true
  | _ => false

/-- The operations that write the brightness (R23): `init`, `set_brightness`. -/
def writesBrightness : Instr → Bool
  | .init _ _ _ | .setBrightness _ _ => true
  | _ => false

/-- `show` (R160). -/
def isShow : Instr → Bool
  | .showFrame _ => true
  | _ => false

/-! ### Durations and end states of the two blocking operations -/

/-- Ticks of a `show` on Backend A from its acceptance to the tick in which `busy` falls (R172, R204). -/
def showTicksA (c : Config) (n : Nat) : Nat :=
  c.buildTicks + (2 * c.settleTicks + (Config.lenA n - 1) * c.periodTicks + 2)

/-- Ticks of a `show` on Backend B from its acceptance to the tick in which `busy` falls (R172, R238). -/
def showTicksB (c : Config) (n : Nat) : Nat := c.buildTicks + c.showLen n * (8 * c.sbitTicks)

/-- Ticks of a `reset` on Backend B (R262). -/
def resetTicksB (c : Config) : Nat := c.resetBytes * (8 * c.sbitTicks)

/-- The block is busy, and takes no command, in each tick from the second to the last of the next `n` (R28). -/
def busyFor (n : Nat) (s : State) : Prop :=
  ∀ j, 0 < j → j < n → ∃ u, after j s = .next u ∧ u.busy = true ∧ readyNow u = false

/-! ### Invariants -/

/-- R25 (a), (b), (c). -/
structure StripOk (s : State) : Prop where
  bounded : s.strip.count.toNat ≤ s.cfg.maxLeds
  fresh : s.strip.inited = false → s.strip.count = 0#16
  bound : s.strip.inited = true → 1 ≤ s.strip.count.toNat

/-- The Backend A line is off and the reader asks for nothing (42_transport_a.md rule R207). -/
structure QuietA (r : RegsA) : Prop where
  pin : r.pinMode = .gpio
  pwm : r.pwmEn = false
  oe : r.oe = false
  en : r.dmaEn = false
  req : r.dmaReq = false

/-- The reader is armed on a frame of `len` elements and has not left it (R193, R198, R203). -/
structure ReaderOk (len : Nat) (r : RegsA) : Prop where
  en : r.dmaEn = true
  sum : r.dmaPtr.toNat + r.dmaRem.toNat = len
  tc : r.dmaTc = true ↔ r.dmaRem = 0#16

/-- The generator runs on the pin (R193, R194). -/
structure GeneratorOk (c : Config) (r : RegsA) : Prop where
  pin : r.pinMode = .pwm
  pwm : r.pwmEn = true
  oe : r.oe = true
  period : r.period = BitVec.ofNat 16 c.periodTicks
  inside : r.cnt.toNat < c.periodTicks

/-- Where a busy Backend A sequencer may be, and what the registers then hold (R33, R190). -/
inductive PhaseA (c : Config) (len : Nat) (r : RegsA) : Prop where
  | preSettle (state : r.tstate = .idle) (phase : r.tphase = .preSettle) (quiet : QuietA r)
  | armed (state : r.tstate = .armed) (phase : r.tphase = .none) (pin : r.pinMode = .gpio) (pwm : r.pwmEn = false)
      (oe : r.oe = false) (cnt : r.cnt = 0#16) (period : r.period = BitVec.ofNat 16 c.periodTicks)
      (reader : ReaderOk len r)
  | waitTc (state : r.tstate = .transmitting) (phase : r.tphase = .waitTc) (gen : GeneratorOk c r) (reader : ReaderOk len r)
  | waitUev (state : r.tstate = .transmitting) (phase : r.tphase = .waitUev) (gen : GeneratorOk c r)
      (reader : ReaderOk len r) (done : r.dmaTc = true)
  | postSettle (state : r.tstate = .transmitting) (phase : r.tphase = .postSettle) (quiet : QuietA r)
  | resetSettle (state : r.tstate = .idle) (phase : r.tphase = .resetSettle) (quiet : QuietA r)

/-- The Backend A transport at rest (R207). -/
structure RestA (r : RegsA) : Prop where
  state : r.tstate = .idle
  phase : r.tphase = .none
  quiet : QuietA r

/-- The Backend B transport at rest (43_transport_b.md rule R240). -/
structure RestB (r : RegsB) : Prop where
  empty : r.drFull = false
  idle : r.srCnt = 0#4
  sent : r.bpos = r.blen

/-- A Backend B stream is being sent, of a `show` or of a `reset` (R231, R235, R262). -/
structure SendingB (c : Config) (n : Nat) (r : RegsB) : Prop where
  inside : r.bpos.toNat ≤ r.blen.toNat
  length : r.blen.toNat = c.showLen n ∨ r.blen.toNat = c.resetBytes

/-- The serializer's counters keep their ranges (R43, R48). -/
structure SerializerOk (c : Config) (r : RegsB) : Prop where
  bits : r.srCnt.toNat ≤ 8
  ticks : r.sbitCnt < c.sbitTicks

/-- The Backend A transport fits what the block is doing. -/
structure TransportOkA (s : State) : Prop where
  rest : s.busy = false ∨ s.buildCnt ≠ 0 → RestA s.a
  run : s.busy = true → s.buildCnt = 0 → PhaseA s.cfg (Config.lenA s.strip.count.toNat) s.a

/-- The Backend B transport fits what the block is doing. -/
structure TransportOkB (s : State) : Prop where
  serializer : SerializerOk s.cfg s.b
  rest : s.busy = false ∨ s.buildCnt ≠ 0 → RestB s.b
  run : s.busy = true → s.buildCnt = 0 → SendingB s.cfg s.strip.count.toNat s.b

/-- The invariant of the block: legal parameters, the strip's own invariant, canonical memories, a transport that fits, only an
initialised strip busy, and the `N` of a `show` whose transport has not yet taken its length still the strip's count. -/
structure BlockInv (s : State) : Prop where
  legal : s.cfg.legal = true
  strip : StripOk s
  memory : Memory.wf s = true
  started : s.busy = true → s.strip.inited = true
  waiting : s.buildCnt ≠ 0 → s.busy = true
  onA : s.cfg.backend = .A → TransportOkA s
  onB : s.cfg.backend = .B → TransportOkB s
  sampled : s.buildCnt ≠ 0 ∨ s.cfg.backend = .A ∧ s.a.tphase = .preSettle → s.showN = s.strip.count

end Sys2Proof.Machine
end

