-- ==== Sys2Proof/Certificates/Slice0/Obligations.lean ====
section
/-! DEFINITION. The statements for the provers. Each formalises a rule of spec/, or rests on the rules it cites in
OBLIGATIONS.json. Every statement holds for every legal choice of parameters; none rests on a value the model chose, and where one rests on a
reading or a convention of the model its docstring says so and names the log entry. -/

open Sys2Proof Sys2Proof.Machine

/-! ### Encodings -/

/-- Every instruction, with every operand at every value, comes back from its code (30_encoding.md rules R90 to R92, R104, R105,
R110, R113, R114). -/
def Obligations.DecodeOfEncode : Prop :=
  ∀ (c : Config) (i : Instr), c.legal = true → decode c (encode c i) = .ok i

/-- A command word is selected on bits 47:44 alone and read through the slices of R90; what R92 does not list is not read. -/
def Obligations.CommandWordFields : Prop :=
  ∀ w : CmdWord,
    (w &&& 0xF00000000000#48 = 0x100000000000#48 →
      decodeCmd w = .init (w.getLsbD 43) (w.getLsbD 42) (w.extractLsb' 24 16)) ∧
    (w &&& 0xF00000000000#48 = 0x200000000000#48 → decodeCmd w = .clear (w.getLsbD 43)) ∧
    (w &&& 0xF00000000000#48 = 0x300000000000#48 →
      decodeCmd w = .setPixel (w.getLsbD 43) (w.extractLsb' 24 16) (w.extractLsb' 16 8) (w.extractLsb' 8 8)
        (w.extractLsb' 0 8)) ∧
    (w &&& 0xF00000000000#48 = 0x400000000000#48 → decodeCmd w = .getPixel (w.getLsbD 43) (w.extractLsb' 24 16)) ∧
    (w &&& 0xF00000000000#48 = 0x500000000000#48 → decodeCmd w = .setBrightness (w.getLsbD 43) (w.extractLsb' 0 8)) ∧
    (w &&& 0xF00000000000#48 = 0x600000000000#48 → decodeCmd w = .getBrightness (w.getLsbD 43)) ∧
    (w &&& 0xF00000000000#48 = 0x700000000000#48 → decodeCmd w = .showFrame (w.getLsbD 43)) ∧
    (w &&& 0xF00000000000#48 = 0x800000000000#48 → decodeCmd w = .resetLine (w.getLsbD 43)) ∧
    (w &&& 0xF00000000000#48 = 0x000000000000#48 → decodeCmd w = .reserved0) ∧
    (w &&& 0xF00000000000#48 = 0x900000000000#48 → decodeCmd w = .reserved9) ∧
    (w &&& 0xF00000000000#48 = 0xA00000000000#48 → decodeCmd w = .reservedA) ∧
    (w &&& 0xF00000000000#48 = 0xB00000000000#48 → decodeCmd w = .reservedB) ∧
    (w &&& 0xF00000000000#48 = 0xC00000000000#48 → decodeCmd w = .reservedC) ∧
    (w &&& 0xF00000000000#48 = 0xD00000000000#48 → decodeCmd w = .reservedD) ∧
    (w &&& 0xF00000000000#48 = 0xE00000000000#48 → decodeCmd w = .reservedE) ∧
    (w &&& 0xF00000000000#48 = 0xF00000000000#48 → decodeCmd w = .reservedF)

/-- The transports' streams: a word that decodes is the code of what it decodes to (R104, R105, R110, R111, R113). A word that is no code
of the block is rejected by name: that is the MODEL's reading (log entry 16), where the spec says only that its decoded meaning is
"otherwise undefined" (R107, R115). -/
def Obligations.WireCodesExactly : Prop :=
  ∀ c : Config, c.legal = true →
    (∀ d i, decodeDuty c d = .ok i ↔ encode c i = .duty d) ∧
    (∀ n i, decodeNibble c n = .ok i ↔ encode c i = .nibble n) ∧
    (∀ y i, decodeByte c y = .ok i ↔ encode c i = .byte y) ∧
    (∀ d, d ≠ 0#16 → d.toNat ≠ c.duty0Ticks → d.toNat ≠ c.duty1Ticks → decodeDuty c d = .error .illegalDuty) ∧
    (∀ n, n ≠ c.code0Nib → n ≠ c.code1Nib → decodeNibble c n = .error .illegalNibble) ∧
    (∀ y : Byte, y ≠ 0#8 →
      ¬ ((y.extractLsb' 4 4 = c.code0Nib ∨ y.extractLsb' 4 4 = c.code1Nib) ∧
        (y.extractLsb' 0 4 = c.code0Nib ∨ y.extractLsb' 0 4 = c.code1Nib)) →
      decodeByte c y = .error .illegalByte)

/-- Words of the spec's own examples, a reserved opcode (R94), and the codes at the default parameters (R104, R110, R114, R131 to R136,
R260). That a word of 8 bits from 1 to 15 is read as a 4-bit code is the MODEL's choice (log entry 23). -/
def Obligations.SampleWords : Prop :=
  decodeTableWord 48 0x1C0003000000 = some (.init true true 3#16) ∧
  decodeTableWord 48 0x380002010203 = some (.setPixel true 2#16 1#8 2#8 3#8) ∧
  decodeTableWord 48 0x480002000000 = some (.getPixel true 2#16) ∧
  decodeTableWord 48 0x580000000080 = some (.setBrightness true 128#8) ∧
  decodeTableWord 48 0x880000000000 = some (.resetLine true) ∧
  decodeTableWord 48 0xF80000000000 = some .reservedF ∧
  decodeTableWord 16 19 = some .aBit0 ∧
  decodeTableWord 16 41 = some .aBit1 ∧
  decodeTableWord 8 0x08 = some .bBit0 ∧
  decodeTableWord 8 0xE8 = some .bPair10

/-! ### The strip-state commands -/

/-- `init` on a strip that is not initialised, and `init` with operands that are not valid (R131, R132). -/
def Obligations.InitBindsTheStrip : Prop :=
  (∀ (s : State) (n : Half), s.strip.inited = false → s.busy = false → Memory.wf s = true → 1 ≤ n.toNat →
    n.toNat ≤ s.cfg.maxLeds →
    ∃ pix, (∀ i, Store.read Pixel.zero pix i = if i < n.toNat then { r := 0#8, g := 0#8, b := 0#8 } else readPix s i) ∧
      exec (.init true true n) s = .next { s with
        strip := { inited := true, count := n, brightness := s.cfg.defaultBrightness, pix := pix }
        a := if s.cfg.backend = .A then { s.a with
            period := BitVec.ofNat 16 s.cfg.periodTicks, cnt := 0#16, pwmEn := false, oe := false, ccrPre := 0#16
            ccrAct := 0#16, uif := false, dmaEn := false, dmaReq := false, dmaTc := false, pinMode := .gpio
            settleCnt := 0#16, tstate := .idle, tphase := .none } else s.a
        b := if s.cfg.backend = .B then { s.b with
            drFull := false, srCnt := 0#4, sbitCnt := 0, bpos := 0#16, blen := 0#16 } else s.b }) ∧
  (∀ (s : State) (h st : Bool) (n : Half), h = false ∨ st = false ∨ n = 0#16 ∨ s.cfg.maxLeds < n.toNat →
    exec (.init h st n) s = .next s)

/-- A second `init`, by the parameter `REINIT` (R138). -/
def Obligations.SecondInit : Prop :=
  ∀ (s : State) (n : Half), s.strip.inited = true → 1 ≤ n.toNat → n.toNat ≤ s.cfg.maxLeds →
    (s.cfg.reinit = .refuse → exec (.init true true n) s = .refused .secondInit) ∧
    (s.cfg.reinit = .ignore → exec (.init true true n) s = .next s) ∧
    (s.cfg.reinit = .rebind → s.busy = false →
      exec (.init true true n) s = exec (.init true true n) { s with strip := { s.strip with inited := false } })

/-- `clear` blackens the live pixels and writes nothing else; after it every index answers black (R133). -/
def Obligations.ClearBlackens : Prop :=
  ∀ (s : State) (h : Bool), Memory.wf s = true → s.strip.count.toNat ≤ s.cfg.maxLeds →
    ∃ pix, exec (.clear h) s = .next { s with strip := { s.strip with pix := pix } } ∧
      (h = false → pix = s.strip.pix) ∧
      (h = true → ∀ i, Store.read Pixel.zero pix i =
        if i < s.strip.count.toNat then { r := 0#8, g := 0#8, b := 0#8 } else readPix s i) ∧
      (h = true → ∀ j, exec (.getPixel true j) { s with strip := { s.strip with pix := pix } } =
        .next { s with strip := { s.strip with pix := pix }, rsp := some 0#24 })

/-- `set_pixel` writes one live pixel whole and nothing else; out of range or with a null handle, nothing (R134). -/
def Obligations.SetPixelWritesOne : Prop :=
  ∀ (s : State) (h : Bool) (i : Half) (r g b : Byte), Memory.wf s = true → s.strip.count.toNat ≤ s.cfg.maxLeds →
    (h = true → i.toNat < s.strip.count.toNat →
      ∃ pix, exec (.setPixel h i r g b) s = .next { s with strip := { s.strip with pix := pix } } ∧
        ∀ k, Store.read Pixel.zero pix k = if k = i.toNat then { r := r, g := g, b := b } else readPix s k) ∧
    (h = false ∨ s.strip.count.toNat ≤ i.toNat → exec (.setPixel h i r g b) s = .next s)

/-- `get_pixel` answers the stored colour, red in the top byte; out of range or with a null handle, black; it writes no state of the
block (R135). -/
def Obligations.GetPixelAnswers : Prop :=
  ∀ (s : State) (h : Bool) (i : Half), s.strip.count.toNat ≤ s.cfg.maxLeds →
    (h = true → i.toNat < s.strip.count.toNat →
      ∃ v : Word24, exec (.getPixel h i) s = .next { s with rsp := some v } ∧
        v.extractLsb' 16 8 = (readPix s i.toNat).r ∧ v.extractLsb' 8 8 = (readPix s i.toNat).g ∧
        v.extractLsb' 0 8 = (readPix s i.toNat).b) ∧
    (h = false ∨ s.strip.count.toNat ≤ i.toNat → exec (.getPixel h i) s = .next { s with rsp := some 0#24 })

/-- `set_brightness` and `get_brightness` (R136, R137). -/
def Obligations.BrightnessAccessors : Prop :=
  ∀ (s : State) (v : Byte),
    exec (.setBrightness true v) s = .next { s with strip := { s.strip with brightness := v } } ∧
    exec (.setBrightness false v) s = .next s ∧
    (∃ w : Word24, exec (.getBrightness true) s = .next { s with rsp := some w } ∧ w.toNat = s.strip.brightness.toNat) ∧
    exec (.getBrightness false) s = .next { s with rsp := some 0#24 }

/-- A reserved opcode does nothing, whatever the other 44 bits hold (R94). -/
def Obligations.ReservedDoNothing : Prop :=
  (∀ (s : State) (w : CmdWord), w.extractLsb' 44 4 ∈ [0x0#4, 0x9#4, 0xA#4, 0xB#4, 0xC#4, 0xD#4, 0xE#4, 0xF#4] →
    exec (decodeCmd w) s = .next s) ∧
  (∀ s : State, exec .reserved0 s = .next s ∧ exec .reserved9 s = .next s ∧ exec .reservedA s = .next s ∧
    exec .reservedB s = .next s ∧ exec .reservedC s = .next s ∧ exec .reservedD s = .next s ∧
    exec .reservedE s = .next s ∧ exec .reservedF s = .next s)

/-- What each operation does on a strip that is not initialised (R139). -/
def Obligations.UninitialisedTable : Prop :=
  ∀ (s : State) (h st : Bool) (n i : Half) (r g b v : Byte), StripOk s → s.strip.inited = false → s.busy = false →
    (∃ t, exec (.init h st n) s = .next t ∧ (t = s ∨ (t.strip.inited = true ∧ t.strip.count = n))) ∧
    exec (.clear h) s = .next s ∧
    exec (.setPixel h i r g b) s = .next s ∧
    exec (.getPixel h i) s = .next { s with rsp := some 0#24 } ∧
    exec (.setBrightness true v) s = .next { s with strip := { s.strip with brightness := v } } ∧
    exec (.getBrightness true) s = .next { s with rsp := some (s.strip.brightness.setWidth 24) } ∧
    exec (.showFrame h) s = .next s ∧
    exec (.resetLine h) s = .next s

/-- The rules the operations share (R130): the six strip-state operations, called in any state, leave `busy`, the line, the frame buffers
and, but for `init`, every transport register as they are, and never fault; with a null handle every operation is a `noop`, and the two
that return a value return zero. -/
def Obligations.OperationsInCommon : Prop :=
  (∀ (i : Instr) (s : State), isStripOp i = true →
    (∀ f, exec i s ≠ .fault f) ∧
    ∀ t, exec i s = .next t → t.busy = s.busy ∧ t.buildCnt = s.buildCnt ∧ t.showN = s.showN ∧ t.dout = s.dout ∧ t.cfg = s.cfg ∧
      (∀ k, readFba t k = readFba s k) ∧ (∀ k, readFbb t k = readFbb s k) ∧
      (isInit i = false → t.a = s.a ∧ t.b = s.b)) ∧
  ∀ (s : State) (st : Bool) (n i : Half) (r g b v : Byte),
    exec (.init false st n) s = .next s ∧ exec (.clear false) s = .next s ∧
    exec (.setPixel false i r g b) s = .next s ∧ exec (.getPixel false i) s = .next { s with rsp := some 0#24 } ∧
    exec (.setBrightness false v) s = .next s ∧ exec (.getBrightness false) s = .next { s with rsp := some 0#24 } ∧
    exec (.showFrame false) s = .next s ∧ exec (.resetLine false) s = .next s

/-- A written pixel reads back unchanged until it is overwritten or cleared, whatever other commands come between (R70, R135). -/
def Obligations.PixelRoundTrip : Prop :=
  ∀ (s t : State) (i : Half) (r g b : Byte) (between : List Instr), StripOk s → Memory.wf s = true →
    i.toNat < s.strip.count.toNat →
    (∀ c ∈ between, c.isCommand = true ∧
      (writesPixels c = false ∨ ∃ h j r' g' b', c = .setPixel h j r' g' b' ∧ j ≠ i)) →
    execAll (.setPixel true i r g b :: between) s = .next t →
    exec (.getPixel true i) t = .next { t with rsp := some (r ++ g ++ b) }

/-- The strip's invariant over every step: it holds after reset, is kept, the count of an initialised strip never changes short of
hardware reset, and only `init`, `clear` and `set_pixel` change a pixel (R25). The count clause leaves out `REINIT = rebind`, which R138
lets change it. -/
def Obligations.StripRules : Prop :=
  (∀ c u, StripOk (State.resetWith c u)) ∧
  ∀ s t : State, step s = .next t →
    (StripOk s → StripOk t) ∧
    ((nextInput s).rst = false → s.strip.inited = true → s.cfg.reinit ≠ .rebind → t.strip.count = s.strip.count) ∧
    ((nextInput s).rst = false → (∀ i, acceptedNow s = some i → writesPixels i = false) →
      ∀ k, readPix t k = readPix s k)

/-- Only the operations the spec names write `inited` and `count`, the brightness and the frame buffers (R21, R22, R23, R29, R30). -/
def Obligations.OnlyNamedOperationsWrite : Prop :=
  ∀ s t : State, step s = .next t → (nextInput s).rst = false →
    ((∀ i, acceptedNow s = some i → isInit i = false) →
      t.strip.inited = s.strip.inited ∧ t.strip.count = s.strip.count) ∧
    ((∀ i, acceptedNow s = some i → writesBrightness i = false) → t.strip.brightness = s.strip.brightness) ∧
    ((∀ i, acceptedNow s = some i → isShow i = false) →
      (∀ k, readFba t k = readFba s k) ∧ ∀ k, readFbb t k = readFbb s k)

/-- A call of a blocking operation, or of an `init` that would bind, while `busy = 1` has no continuation (R171, R324, U1); that it is refused by name
is how the MODEL says so (log entry 13). -/
def Obligations.OverlapIsRefused : Prop :=
  ∀ (s : State) (n : Half), s.busy = true →
    (1 ≤ s.strip.count.toNat → s.strip.count.toNat ≤ s.cfg.maxLeds →
      exec (.showFrame true) s = .refused .overlap) ∧
    (s.strip.inited = true → exec (.resetLine true) s = .refused .overlap) ∧
    (s.strip.inited = false → 1 ≤ n.toNat → n.toNat ≤ s.cfg.maxLeds →
      exec (.init true true n) s = .refused .overlap)

/-! ### `show` and the frame encoder -/

/-- A `show` that fails validation writes nothing (R161). -/
def Obligations.ShowValidation : Prop :=
  ∀ (s : State) (h : Bool), h = false ∨ s.strip.count = 0#16 ∨ s.cfg.maxLeds < s.strip.count.toNat →
    exec (.showFrame h) s = .next s

/-- A valid `show` in the tick it is accepted: `busy` rises, `N` is sampled, the block's own frame buffer, and only it, holds the frame
(`frameA` or `frameB` in its used part; FrameLayoutA and FrameLayoutB say what that is element by element), and the transport starts at
once or after `BUILD_TICKS` (R71, R160, R172, R190, R191, R231, R235). `showN` and `buildCnt` are the MODEL's registers for the sampled
`N` and the ticks awaited (log entries 31 and 11). -/
def Obligations.ShowAccepted : Prop :=
  ∀ s : State, BlockInv s → s.busy = false → 1 ≤ s.strip.count.toNat →
    exec (.showFrame true) s = .next { s with
        busy := true
        buildCnt := s.cfg.buildTicks
        showN := s.strip.count
        fba := if s.cfg.backend = .A then
            Store.fill 0#16 (frameA s.cfg s.strip.count.toNat s.strip.brightness s.strip.pix) s.fba else s.fba
        fbb := if s.cfg.backend = .B then
            Store.fill 0#8 (frameB s.cfg s.strip.count.toNat s.strip.brightness s.strip.pix) s.fbb else s.fbb
        a := if s.cfg.backend = .A ∧ s.cfg.buildTicks = 0 then { s.a with
            tphase := .preSettle, pinMode := .gpio, settleCnt := BitVec.ofNat 16 s.cfg.settleTicks } else s.a
        b := if s.cfg.backend = .B ∧ s.cfg.buildTicks = 0 then { s.b with
            bpos := 0#16, blen := BitVec.ofNat 16 (2 * s.cfg.resetBytes + 12 * s.strip.count.toNat + 2) } else s.b }

/-- `BuildA`: the guards, the 24 duties of each LED, and nothing beyond them (R108, R167). -/
def Obligations.FrameLayoutA : Prop :=
  ∀ s : State, BlockInv s → s.cfg.backend = .A → s.busy = false → 1 ≤ s.strip.count.toNat →
    ∃ t, exec (.showFrame true) s = .next t ∧
      readFba t 0 = 0#16 ∧
      (∀ i j, i < s.strip.count.toNat → j < 24 →
        readFba t (1 + 24 * i + j) =
          if ((scaled s.strip.brightness (readPix s i)).g ++ (scaled s.strip.brightness (readPix s i)).r ++
              (scaled s.strip.brightness (readPix s i)).b).getLsbD (23 - j) = true
          then BitVec.ofNat 16 s.cfg.duty1Ticks else BitVec.ofNat 16 s.cfg.duty0Ticks) ∧
      readFba t (24 * s.strip.count.toNat + 1) = 0#16 ∧
      ∀ k, 24 * s.strip.count.toNat + 2 ≤ k → readFba t k = readFba s k

/-- `BuildB`: the guard bytes, the 12 bytes of each LED with the earlier bit in the high nibble, and nothing beyond them (R111, R112,
R168). -/
def Obligations.FrameLayoutB : Prop :=
  ∀ s : State, BlockInv s → s.cfg.backend = .B → s.busy = false → 1 ≤ s.strip.count.toNat →
    ∃ t, exec (.showFrame true) s = .next t ∧
      readFbb t 0 = 0#8 ∧
      (∀ i q, i < s.strip.count.toNat → q < 12 →
        let w := (scaled s.strip.brightness (readPix s i)).g ++ (scaled s.strip.brightness (readPix s i)).r ++
          (scaled s.strip.brightness (readPix s i)).b
        readFbb t (1 + 12 * i + q) =
          (if w.getLsbD (23 - 2 * q) = true then s.cfg.code1Nib else s.cfg.code0Nib) ++
            (if w.getLsbD (23 - 2 * q - 1) = true then s.cfg.code1Nib else s.cfg.code0Nib)) ∧
      readFbb t (12 * s.strip.count.toNat + 1) = 0#8 ∧
      ∀ k, 12 * s.strip.count.toNat + 2 ≤ k → readFbb t k = readFbb s k

/-- The scale function is exact and obeys its laws (R162, R164). -/
def Obligations.ScaleLaws : Prop :=
  ∀ v s : Byte,
    (scale v s).toNat = (v.toNat * s.toNat + 127) / 255 ∧
    scale v 255#8 = v ∧
    scale v 0#8 = 0#8 ∧
    scale 0#8 s = 0#8 ∧
    scale v s = scale s v ∧
    scale v s ≤ v ∧ scale v s ≤ s ∧
    2 * v.toNat * s.toNat < 2 * 255 * (scale v s).toNat + 255 ∧
    2 * 255 * (scale v s).toNat < 2 * v.toNat * s.toNat + 255 ∧
    scale 255#8 128#8 = 128#8 ∧ scale 1#8 1#8 = 0#8

/-- The three channels are scaled alike and independently; at full brightness the scaling that is skipped would change nothing (R163). -/
def Obligations.ScalingOfAPixel : Prop :=
  ∀ (s : Byte) (p : Pixel),
    (s = 255#8 → scaled s p = p) ∧
    (s ≠ 255#8 → scaled s p = { r := scale p.r s, g := scale p.g s, b := scale p.b s }) ∧
    scaled s p = { r := scale p.r s, g := scale p.g s, b := scale p.b s }

/-- The wire order: green, red, blue, each most significant bit first (R101, R102). -/
def Obligations.WireOrder : Prop :=
  ∀ (p : Pixel),
    (wireWord p).extractLsb' 16 8 = p.g ∧ (wireWord p).extractLsb' 8 8 = p.r ∧ (wireWord p).extractLsb' 0 8 = p.b ∧
    ∀ j, j < 24 →
      protocolBit (wireWord p) j = (wireWord p).getLsbD (23 - j) ∧
      protocolBit (wireWord p) j =
        if j < 8 then p.g.getLsbD (7 - j) else if j < 16 then p.r.getLsbD (15 - j) else p.b.getLsbD (23 - j)

/-- Decoding the buffer a `show` built gives the frame's bits, on either backend, and the same bits on both for the same strip state; the
pulses themselves differ (R107, R115, R117). -/
def Obligations.BackendsAgree : Prop :=
  (∀ s : State, BlockInv s → s.cfg.backend = .A → s.busy = false → 1 ≤ s.strip.count.toNat →
    ∃ t, exec (.showFrame true) s = .next t ∧
      (List.range (24 * s.strip.count.toNat)).map (fun m => decA s.cfg (readFba t (1 + m))) =
        (frameBits s.strip.count.toNat s.strip.brightness s.strip.pix).map SlotKind.bit) ∧
  (∀ s : State, BlockInv s → s.cfg.backend = .B → s.busy = false → 1 ≤ s.strip.count.toNat →
    ∃ t, exec (.showFrame true) s = .next t ∧
      (List.range (24 * s.strip.count.toNat)).map (fun m =>
          decB s.cfg (if m % 2 = 0 then (readFbb t (1 + m / 2)).extractLsb' 4 4
            else (readFbb t (1 + m / 2)).extractLsb' 0 4)) =
        (frameBits s.strip.count.toNat s.strip.brightness s.strip.pix).map some) ∧
  (∀ s u t v : State, BlockInv s → BlockInv u → s.cfg.backend = .A → u.cfg.backend = .B → s.busy = false → u.busy = false →
    1 ≤ s.strip.count.toNat → s.strip = u.strip → exec (.showFrame true) s = .next t →
    exec (.showFrame true) u = .next v →
    ∀ m, m < 24 * s.strip.count.toNat → ∃ bit : Bool,
      decA s.cfg (readFba t (1 + m)) = .bit bit ∧ bitOfFbb v m = some bit) ∧
  highRun (periodLine (Config.defaults .A) ((Config.defaults .A).codeA false).toNat) = 19 ∧
  highRun (periodLine (Config.defaults .A) ((Config.defaults .A).codeA true).toNat) = 41 ∧
  highRun (windowLine (Config.defaults .B) ((Config.defaults .B).codeB false)) = 15 ∧
  highRun (windowLine (Config.defaults .B) ((Config.defaults .B).codeB true)) = 45

/-- At brightness 0 the frame is full length and every data slot carries the code of a logical 0 (R170). -/
def Obligations.ZeroBrightnessFrame : Prop :=
  ∀ s : State, BlockInv s → s.busy = false → 1 ≤ s.strip.count.toNat → s.strip.brightness = 0#8 →
    ∃ t, exec (.showFrame true) s = .next t ∧ t.busy = true ∧
      (s.cfg.backend = .A → ∀ k, 1 ≤ k → k ≤ 24 * s.strip.count.toNat →
        readFba t k = BitVec.ofNat 16 s.cfg.duty0Ticks) ∧
      (s.cfg.backend = .B → ∀ k, 1 ≤ k → k ≤ 12 * s.strip.count.toNat →
        readFbb t k = s.cfg.code0Nib ++ s.cfg.code0Nib)

/-- The line-level discriminator reads both shapes of a bit as that bit, on Backend A wherever the two duties lie on the two sides of
half the period, on Backend B wherever the 0-code is high for one bit-time of four; and a data part cut into windows of one bit period
gives back the bits that were sent, however many (R118, R109, R116). A whole `show`'s trace is read in ShowOnTheLineA and
ShowOnTheLineB. -/
def Obligations.DiscriminatorReadsBothShapes : Prop :=
  ∀ (c : Config) (bit : Bool), c.legal = true →
    (2 * c.duty0Ticks < c.periodTicks → c.periodTicks ≤ 2 * c.duty1Ticks →
      discriminate (periodLine c (c.codeA bit).toNat) = some bit) ∧
    (c.code0Nib = 0b1000#4 → discriminate (windowLine c (c.codeB bit)) = some bit) ∧
    discriminate (periodLine c 0) = none ∧
    (discriminable c = true → ∀ bits rest : List Bool,
      (c.backend = .A →
        decodeWindows c.periodTicks bits.length (bits.flatMap (fun b => periodLine c (c.codeA b).toNat) ++ rest) = some bits) ∧
      (c.backend = .B →
        decodeWindows (4 * c.sbitTicks) bits.length (bits.flatMap (fun b => windowLine c (c.codeB b)) ++ rest) = some bits))

/-! ### Backend A, tick by tick -/

/-- The reader's step (R198, R200): it writes nothing but the five registers. -/
def Obligations.ReaderStep : Prop :=
  ∀ (s : State) (stall : Bool), s.cfg.backend = .A →
    (s.a.dmaEn = false ∨ s.a.dmaReq = false → reader stall s = .next s) ∧
    (s.a.dmaEn = true → s.a.dmaReq = true → s.a.dmaRem = 0#16 →
      reader stall s = .next { s with a := { s.a with dmaReq := false } }) ∧
    (s.a.dmaEn = true → s.a.dmaReq = true → s.a.dmaRem ≠ 0#16 → stall = true → reader stall s = .next s) ∧
    (s.a.dmaEn = true → s.a.dmaReq = true → s.a.dmaRem ≠ 0#16 → stall = false → s.a.dmaPtr.toNat < s.cfg.capA →
      reader stall s = .next { s with a := { s.a with
        ccrPre := readFba s s.a.dmaPtr.toNat
        dmaPtr := s.a.dmaPtr + 1#16
        dmaRem := s.a.dmaRem - 1#16
        dmaReq := false
        dmaTc := if s.a.dmaRem = 1#16 then true else s.a.dmaTc } })

/-- The active duty changes only at a period boundary, and there it takes the preload's value (R196). -/
def Obligations.DutyLatching : Prop :=
  ∀ s t : State, s.cfg.backend = .A → (nextInput s).rst = false → (∀ i, acceptedNow s = some i → isInit i = false) →
    step s = .next t →
    t.a.ccrAct =
      if (sequencer (beginTick s)).a.pwmEn = true ∧ (sequencer (beginTick s)).a.cnt = 0#16 then s.a.ccrPre
      else s.a.ccrAct

/-- The generator's tick while the sequencer waits for the transfer to complete (R194, R195, R197; 10_state.md rule R41). -/
def Obligations.GeneratorTick : Prop :=
  ∀ s : State, BlockInv s → s.cfg.backend = .A → s.busy = true → s.buildCnt = 0 → s.a.tphase = .waitTc →
    s.a.dmaTc = false → (nextInput s).rst = false →
    ∃ t, step s = .next t ∧
      t.a.ccrAct = (if s.a.cnt = 0#16 then s.a.ccrPre else s.a.ccrAct) ∧
      t.a.uif = (if s.a.cnt = 0#16 then true else s.a.uif) ∧
      t.dout = decide (s.a.cnt < t.a.ccrAct) ∧
      t.a.cnt.toNat = (s.a.cnt.toNat + 1) % s.cfg.periodTicks ∧
      ((nextInput s).stall = true → t.a.dmaReq = if s.a.cnt = 0#16 then true else s.a.dmaReq) ∧
      ((nextInput s).stall = false → t.a.dmaReq = false) ∧
      t.a.tstate = .transmitting ∧ t.a.tphase = .waitTc ∧ t.a.pinMode = .pwm ∧ t.a.period = s.a.period ∧
      t.a.pwmEn = true ∧ t.a.oe = true ∧ t.a.dmaEn = true ∧ t.busy = true ∧ t.strip = s.strip

/-- A tick of a settle sequence: the line low, the settle counter down by one, nothing else moved (R191, R202). -/
def Obligations.SettleTick : Prop :=
  ∀ s : State, BlockInv s → s.cfg.backend = .A → s.busy = true → s.buildCnt = 0 →
    s.a.tphase = .preSettle ∨ s.a.tphase = .postSettle ∨ s.a.tphase = .resetSettle → s.a.settleCnt ≠ 0#16 →
    (nextInput s).rst = false →
    step s = .next { s with
      inputs := s.inputs.tail, rsp := none, ticks := s.ticks + 1, dout := false
      a := { s.a with settleCnt := s.a.settleCnt - 1#16 } }

/-- The tick `Ta`: the entry settle is over, the reader is armed and its priming request served (R192, R193, R199). -/
def Obligations.ArmTick : Prop :=
  ∀ s : State, BlockInv s → s.cfg.backend = .A → s.busy = true → s.buildCnt = 0 → s.a.tphase = .preSettle →
    s.a.settleCnt = 0#16 → (nextInput s).rst = false → (nextInput s).stall = false →
    step s = .next { s with
      inputs := s.inputs.tail, rsp := none, ticks := s.ticks + 1, dout := false
      a := { s.a with
        tstate := .armed, tphase := .none, period := BitVec.ofNat 16 s.cfg.periodTicks, cnt := 0#16, uif := false
        dmaTc := false, dmaEn := true, dmaReq := false, ccrPre := readFba s 0, dmaPtr := 1#16
        dmaRem := BitVec.ofNat 16 (24 * s.strip.count.toNat + 1) } }

/-- The tick `T0`: the generator starts, and the tick is period boundary 0 (R193, R195, R198). -/
def Obligations.StartTick : Prop :=
  ∀ s : State, BlockInv s → s.cfg.backend = .A → s.busy = true → s.buildCnt = 0 → s.a.tstate = .armed →
    s.a.dmaRem ≠ 0#16 → (nextInput s).rst = false → (nextInput s).stall = false →
    step s = .next { s with
      inputs := s.inputs.tail, rsp := none, ticks := s.ticks + 1, dout := decide (0#16 < s.a.ccrPre)
      a := { s.a with
        pinMode := .pwm, oe := true, pwmEn := true, tstate := .transmitting, tphase := .waitTc
        ccrAct := s.a.ccrPre, uif := true, cnt := 1#16, dmaReq := false
        settleCnt := if s.a.settleCnt = 0#16 then 0#16 else s.a.settleCnt - 1#16
        ccrPre := readFba s s.a.dmaPtr.toNat, dmaPtr := s.a.dmaPtr + 1#16, dmaRem := s.a.dmaRem - 1#16
        dmaTc := if s.a.dmaRem = 1#16 then true else s.a.dmaTc } }

/-- The end of a transmission: `dma_tc` seen, one more boundary seen, generator and reader off into the exit settle, and back to
`IDLE` (R201). -/
def Obligations.CompletionTicks : Prop :=
  ∀ s : State, BlockInv s → s.cfg.backend = .A → s.busy = true → s.buildCnt = 0 → (nextInput s).rst = false →
    (s.a.tphase = .waitTc → s.a.dmaTc = true →
      ∃ t, step s = .next t ∧ t.a.tphase = .waitUev ∧ t.a.tstate = .transmitting ∧
        t.a.uif = decide (s.a.cnt = 0#16) ∧ t.a.pwmEn = true ∧ t.a.oe = true ∧ t.busy = true) ∧
    (s.a.tphase = .waitUev → s.a.uif = false →
      ∃ t, step s = .next t ∧ t.a.tphase = .waitUev ∧ t.a.tstate = .transmitting ∧
        t.a.uif = decide (s.a.cnt = 0#16) ∧ t.a.pwmEn = true ∧ t.a.oe = true ∧ t.busy = true) ∧
    (s.a.tphase = .waitUev → s.a.uif = true →
      step s = .next { s with
        inputs := s.inputs.tail, rsp := none, ticks := s.ticks + 1, dout := false
        a := { s.a with
          pwmEn := false, oe := false, dmaEn := false, dmaReq := false, tphase := .postSettle, pinMode := .gpio
          settleCnt := BitVec.ofNat 16 (s.cfg.settleTicks - 1) } }) ∧
    (s.a.tphase = .postSettle → s.a.settleCnt = 0#16 → (nextInput s).cmd = none →
      step s = .next { s with
        inputs := s.inputs.tail, rsp := none, ticks := s.ticks + 1, dout := false, busy := false
        a := { s.a with tstate := .idle, tphase := .none } })

/-- The slot timeline with no stall, from the tick `Ta` on: after the actions of boundary `k` (R203). -/
def Obligations.SlotTimeline : Prop :=
  ∀ (s : State) (k : Nat), BlockInv s → s.cfg.backend = .A → s.busy = true → s.buildCnt = 0 → s.a.tphase = .preSettle →
    s.a.settleCnt = 0#16 → k ≤ Config.lenA s.strip.count.toNat - 1 →
    noRst (2 + k * s.cfg.periodTicks) s → noStall (2 + k * s.cfg.periodTicks) s →
    ∃ t, after (2 + k * s.cfg.periodTicks) s = .next t ∧
      t.a.ccrAct = readFba s k ∧
      t.a.ccrPre = readFba s (min (k + 1) (Config.lenA s.strip.count.toNat - 1)) ∧
      t.a.dmaPtr.toNat = min (k + 2) (Config.lenA s.strip.count.toNat) ∧
      t.a.dmaRem.toNat = Config.lenA s.strip.count.toNat - t.a.dmaPtr.toNat ∧
      (t.a.dmaTc = true ↔ Config.lenA s.strip.count.toNat - 2 ≤ k)

/-- A whole `show` on Backend A with no stall and no reset (R204, R207): the line, tick by tick, from the tick it is accepted, and low for
as long after as no command comes; the bits a line-level discriminator reads off it (R117, R118); the key ticks; the end state. That the
frame is sampled at acceptance and `BUILD_TICKS` low ticks come before the transport is the MODEL's reading of R172 (log entry 11); where
in a tick each agent acts is log entry 1. -/
def Obligations.ShowOnTheLineA : Prop :=
  ∀ (s : State) (w : CmdWord), BlockInv s → s.cfg.backend = .A → readyNow s = true → (nextInput s).cmd = some w →
    decodeCmd w = .showFrame true → 1 ≤ s.strip.count.toNat →
    noRst (showTicksA s.cfg s.strip.count.toNat) s → noStall (showTicksA s.cfg s.strip.count.toNat) s →
    let c := s.cfg
    let len := Config.lenA s.strip.count.toNat
    (∀ m, noRst (showTicksA c s.strip.count.toNat + m) s →
      (∀ j, j < m → (inputAt s (showTicksA c s.strip.count.toNat + j)).cmd = none) →
      lineTrace (showTicksA c s.strip.count.toNat + m) s =
        low c.buildTicks ++ low c.settleTicks ++ low 1 ++ periodLine c 0 ++
          (frameBits s.strip.count.toNat s.strip.brightness s.strip.pix).flatMap
            (fun bit => periodLine c (if bit then c.duty1Ticks else c.duty0Ticks)) ++
          low 1 ++ low c.settleTicks ++ low m) ∧
    (discriminable c = true →
      decodeLine c s.strip.count.toNat (lineTrace (showTicksA c s.strip.count.toNat) s) =
        some (frameBits s.strip.count.toNat s.strip.brightness s.strip.pix)) ∧
    busyFor (showTicksA c s.strip.count.toNat) s ∧
    (∃ u, after (c.buildTicks + c.settleTicks + 1) s = .next u ∧ u.a.tstate = .armed) ∧
    (∃ u, after (c.buildTicks + c.settleTicks + 2) s = .next u ∧ u.a.tstate = .transmitting ∧ u.a.pwmEn = true) ∧
    (∃ u v, after (c.buildTicks + c.settleTicks + 1 + (len - 2) * c.periodTicks) s = .next u ∧ u.a.dmaTc = false ∧
      step u = .next v ∧ v.a.dmaTc = true) ∧
    (∃ u v, after (c.buildTicks + c.settleTicks + 2 + (len - 1) * c.periodTicks) s = .next u ∧ u.a.pwmEn = true ∧
      step u = .next v ∧ v.a.pwmEn = false) ∧
    ∃ t, after (showTicksA c s.strip.count.toNat) s = .next t ∧ readyNow t = true ∧ t.strip = s.strip ∧
      t.a.tstate = .transmitting ∧ t.a.tphase = .postSettle ∧ t.a.pinMode = .gpio ∧ t.a.pwmEn = false ∧ t.a.oe = false ∧
      t.a.ccrPre = 0#16 ∧ t.a.ccrAct = 0#16 ∧ t.a.dmaTc = true ∧ t.a.uif = true ∧ t.a.dmaEn = false ∧ t.a.cnt = 1#16 ∧
      t.a.settleCnt = 0#16 ∧
      ((nextInput t).rst = false → (nextInput t).cmd = none →
        ∃ u, step t = .next u ∧ u.busy = false ∧ u.a = { t.a with tstate := .idle, tphase := .none })

/-- A reader that stalls with elements outstanding hangs the block: it stays in `PH_WAIT_TC`, busy, for as long as the stall lasts, and
the line replays the queued duty period after period (R205, R206, R283). A duty above the period plays as the whole period (R106). -/
def Obligations.StallHangs : Prop :=
  ∀ (s : State) (k : Nat), BlockInv s → s.cfg.backend = .A → s.busy = true → s.buildCnt = 0 → s.a.tphase = .waitTc →
    s.a.dmaRem ≠ 0#16 → noRst k s → allStall k s →
    (∃ t, after k s = .next t ∧ t.busy = true ∧ readyNow t = false ∧ t.a.tstate = .transmitting ∧
      t.a.tphase = .waitTc ∧ t.a.dmaTc = false ∧ t.a.pwmEn = true ∧ t.a.oe = true ∧ t.a.pinMode = .pwm ∧
      t.a.dmaRem = s.a.dmaRem ∧ t.a.dmaPtr = s.a.dmaPtr ∧ t.a.ccrPre = s.a.ccrPre ∧ t.strip = s.strip) ∧
    ∀ m, s.a.cnt = 0#16 → k = m * s.cfg.periodTicks →
      lineTrace k s =
        (List.replicate m (periodLine s.cfg (min s.a.ccrPre.toNat s.cfg.periodTicks))).flatten

/-- The three states are left only as `IDLE → ARMED → TRANSMITTING → IDLE`, by a step without reset (R190, R192, R193, R201). -/
def Obligations.StateMachineOrder : Prop :=
  ∀ s t : State, BlockInv s → s.cfg.backend = .A → (nextInput s).rst = false → step s = .next t → t.a.tstate ≠ s.a.tstate →
    (s.a.tstate = .idle ∧ t.a.tstate = .armed ∧ s.a.tphase = .preSettle ∧ s.a.settleCnt = 0#16) ∨
    (s.a.tstate = .armed ∧ t.a.tstate = .transmitting ∧ t.a.pwmEn = true) ∨
    (s.a.tstate = .transmitting ∧ t.a.tstate = .idle ∧ s.a.tphase = .postSettle ∧ s.a.settleCnt = 0#16)

/-! ### Backend B, tick by tick -/

/-- The serializer's step: load, output, end of tick (R232). -/
def Obligations.SerializerStep : Prop :=
  ∀ s : State, s.cfg.backend = .B →
    let l : RegsB := if s.b.srCnt = 0#4 ∧ s.b.drFull = true then
      { s.b with sr := s.b.dr, srCnt := 8#4, sbitCnt := 0, drFull := false } else s.b
    serialize (loadB s) = .next { s with
      dout := if l.srCnt = 0#4 then false else l.sr.getLsbD 7
      b := if l.srCnt = 0#4 then l
        else if l.sbitCnt + 1 = s.cfg.sbitTicks then
          { l with sbitCnt := 0, sr := BitVec.ofNat 8 (2 * l.sr.toNat), srCnt := l.srCnt - 1#4 }
        else { l with sbitCnt := l.sbitCnt + 1 } }

/-- The byte loop of a `show` writes the data register only when it is empty, with the byte of the stream's table (R231, R233, R235). -/
def Obligations.ByteLoopStep : Prop :=
  ∀ s : State, BlockInv s → s.cfg.backend = .B → s.busy = true → s.buildCnt = 0 →
    s.b.blen.toNat = 2 * s.cfg.resetBytes + Config.lenB s.strip.count.toNat →
    (s.b.drFull = true ∨ s.b.bpos = s.b.blen → byteLoop s = .next s) ∧
    (s.b.drFull = false → s.b.bpos ≠ s.b.blen →
      byteLoop s = .next { s with b := { s.b with
        dr :=
          if s.b.bpos.toNat < s.cfg.resetBytes then 0#8
          else if s.b.bpos.toNat < s.cfg.resetBytes + Config.lenB s.strip.count.toNat then
            readFbb s (s.b.bpos.toNat - s.cfg.resetBytes)
          else 0#8
        drFull := true
        bpos := s.b.bpos + 1#16 } })

/-- A byte in the data register of a busy block whose shift register is idle is on the line for the next `8×SBIT_TICKS` ticks as the
windows of its two nibbles, the high one first (R116). -/
def Obligations.ByteOnTheLine : Prop :=
  ∀ s : State, BlockInv s → s.cfg.backend = .B → s.busy = true → s.buildCnt = 0 → s.b.srCnt = 0#4 → s.b.drFull = true →
    noRst (8 * s.cfg.sbitTicks) s →
    lineTrace (8 * s.cfg.sbitTicks) s =
      windowLine s.cfg (s.b.dr.extractLsb' 4 4) ++ windowLine s.cfg (s.b.dr.extractLsb' 0 4)

/-- A whole `show` on Backend B with no reset (R238, R240): the line, tick by tick, from the tick it is accepted, and low for as long
after as no command comes; the bits a line-level discriminator reads off it (R117, R118); the end state. That the frame is sampled at
acceptance and `BUILD_TICKS` low ticks come before the transport is the MODEL's reading of R172 (log entry 11), and that the first byte is
written in the tick the transport starts its reading of R235 and R236 (log entry 30). -/
def Obligations.ShowOnTheLineB : Prop :=
  ∀ (s : State) (w : CmdWord), BlockInv s → s.cfg.backend = .B → readyNow s = true → (nextInput s).cmd = some w →
    decodeCmd w = .showFrame true → 1 ≤ s.strip.count.toNat → noRst (showTicksB s.cfg s.strip.count.toNat) s →
    let c := s.cfg
    (∀ m, noRst (showTicksB c s.strip.count.toNat + m) s →
      (∀ j, j < m → (inputAt s (showTicksB c s.strip.count.toNat + j)).cmd = none) →
      lineTrace (showTicksB c s.strip.count.toNat + m) s =
        low c.buildTicks ++ low (c.resetBytes * 8 * c.sbitTicks) ++ low (8 * c.sbitTicks) ++
          (frameBits s.strip.count.toNat s.strip.brightness s.strip.pix).flatMap
            (fun bit => windowLine c (if bit then c.code1Nib else c.code0Nib)) ++
          low (8 * c.sbitTicks) ++ low (c.resetBytes * 8 * c.sbitTicks) ++ low m) ∧
    (discriminable c = true →
      decodeLine c s.strip.count.toNat (lineTrace (showTicksB c s.strip.count.toNat) s) =
        some (frameBits s.strip.count.toNat s.strip.brightness s.strip.pix)) ∧
    busyFor (showTicksB c s.strip.count.toNat) s ∧
    ∃ t, after (showTicksB c s.strip.count.toNat) s = .next t ∧ readyNow t = true ∧ t.strip = s.strip ∧
      t.b.dr = 0#8 ∧ t.b.sr = 0#8 ∧ t.b.drFull = false ∧ t.b.srCnt = 0#4 ∧ t.b.sbitCnt = 0 ∧ t.b.bpos = t.b.blen ∧
      t.b.blen.toNat = 2 * c.resetBytes + 12 * s.strip.count.toNat + 2 ∧
      ((nextInput t).rst = false → (nextInput t).cmd = none → ∃ u, step t = .next u ∧ u.busy = false ∧ u.b = t.b)

/-! ### `reset` -/

/-- `reset` in the tick it is accepted, and where it is a `noop` (R260). -/
def Obligations.ResetAccepted : Prop :=
  ∀ (s : State) (h : Bool),
    (h = false ∨ s.strip.inited = false → exec (.resetLine h) s = .next s) ∧
    (h = true → s.strip.inited = true → s.busy = false →
      exec (.resetLine h) s = .next { s with
        busy := true
        a := if s.cfg.backend = .A then { s.a with
            tphase := .resetSettle, pinMode := .gpio, settleCnt := BitVec.ofNat 16 s.cfg.settleTicks } else s.a
        b := if s.cfg.backend = .B then { s.b with
            bpos := 0#16, blen := BitVec.ofNat 16 s.cfg.resetBytes } else s.b })

/-- A whole `reset` on Backend A: one settle sequence, generator and reader untouched (R261). -/
def Obligations.ResetOnTheLineA : Prop :=
  ∀ (s : State) (w : CmdWord), BlockInv s → s.cfg.backend = .A → readyNow s = true → (nextInput s).cmd = some w →
    decodeCmd w = .resetLine true → s.strip.inited = true → noRst s.cfg.settleTicks s →
    lineTrace s.cfg.settleTicks s = low s.cfg.settleTicks ∧
    busyFor s.cfg.settleTicks s ∧
    (∀ j, 0 < j → j ≤ s.cfg.settleTicks → ∃ u, after j s = .next u ∧ u.a.tstate = .idle ∧ u.a.pinMode = .gpio) ∧
    ∃ t, after s.cfg.settleTicks s = .next t ∧ t.busy = true ∧ readyNow t = true ∧ t.strip = s.strip ∧
      t.fba = s.fba ∧ t.fbb = s.fbb ∧
      t.a = { s.a with tstate := .idle, tphase := .resetSettle, pinMode := .gpio, settleCnt := 0#16 }

/-- A whole `reset` on Backend B: one reset block (R262). -/
def Obligations.ResetOnTheLineB : Prop :=
  ∀ (s : State) (w : CmdWord), BlockInv s → s.cfg.backend = .B → readyNow s = true → (nextInput s).cmd = some w →
    decodeCmd w = .resetLine true → s.strip.inited = true → noRst (resetTicksB s.cfg) s →
    lineTrace (resetTicksB s.cfg) s = low (s.cfg.resetBytes * 8 * s.cfg.sbitTicks) ∧
    busyFor (resetTicksB s.cfg) s ∧
    ∃ t, after (resetTicksB s.cfg) s = .next t ∧ t.busy = true ∧ readyNow t = true ∧ t.strip = s.strip ∧
      t.fba = s.fba ∧ t.fbb = s.fbb ∧ spiTc t.b = true ∧ t.b.bpos.toNat = s.cfg.resetBytes ∧ t.b.dr = 0#8 ∧
      t.b.sr = 0#8

/-! ### The wire codes as instructions (log entry 2: the model's choice of what running one means) -/

/-- A Backend A code taken by the reader: the code goes to the preload, the reader moves on (R104, R105, R198). -/
def Obligations.DutyCodesMove : Prop :=
  ∀ s : State, s.cfg.backend = .A →
    let moved (d : Nat) : State := { s with a := { s.a with
      ccrPre := BitVec.ofNat 16 d, dmaPtr := s.a.dmaPtr + 1#16, dmaRem := s.a.dmaRem - 1#16, dmaReq := false
      dmaTc := if s.a.dmaRem = 1#16 then true else s.a.dmaTc } }
    exec .aGuard s = .next (moved 0) ∧ exec .aBit0 s = .next (moved s.cfg.duty0Ticks) ∧
    exec .aBit1 s = .next (moved s.cfg.duty1Ticks)

/-- A Backend B byte taken by the byte loop: it goes to the data register (R113, R114, R233). -/
def Obligations.ByteCodesAreWritten : Prop :=
  ∀ s : State, s.cfg.backend = .B →
    let written (y : Byte) : State := { s with b := { s.b with dr := y, drFull := true, bpos := s.b.bpos + 1#16 } }
    exec .bGuard s = .next (written 0x00#8) ∧
    exec .bPair00 s = .next (written (s.cfg.code0Nib ++ s.cfg.code0Nib)) ∧
    exec .bPair01 s = .next (written (s.cfg.code0Nib ++ s.cfg.code1Nib)) ∧
    exec .bPair10 s = .next (written (s.cfg.code1Nib ++ s.cfg.code0Nib)) ∧
    exec .bPair11 s = .next (written (s.cfg.code1Nib ++ s.cfg.code1Nib))

/-- A 4-bit code taken by the serializer: its first bit, which is 1, is on the line in that tick, and the window has begun (R110, R116,
R232). -/
def Obligations.NibbleCodesArePlayed : Prop :=
  ∀ s : State, s.cfg.legal = true → s.cfg.backend = .B → s.b.srCnt = 8#4 ∨ s.b.srCnt = 4#4 → s.b.sbitCnt = 0 →
    let played (n : Nibble) : State := { s with
      dout := true
      b := if s.cfg.sbitTicks = 1 then
          { s.b with sr := (n ++ s.b.sr.extractLsb' 0 4) <<< (1 : Nat), srCnt := s.b.srCnt - 1#4 }
        else { s.b with sr := n ++ s.b.sr.extractLsb' 0 4, sbitCnt := 1 } }
    exec .bBit0 s = .next (played s.cfg.code0Nib) ∧ exec .bBit1 s = .next (played s.cfg.code1Nib)

/-- A code of the backend a block was not built with is refused by name. The spec says only that such a block holds none of that state
(10_state.md); that running the code is refused is the MODEL's choice (log entry 19). -/
def Obligations.AbsentBackendIsRefused : Prop :=
  ∀ (s : State) (i : Instr), i.wellFormed s.cfg = false → exec i s = .refused .absentBackend

/-! ### The machine as a whole -/

/-- A tick in which a command is accepted runs that command (R15). Its place in the tick, after the sequencer's wait and before the other
agents, whose own order is that of R202 and R236, is the MODEL's reading (log entry 1). -/
def Obligations.StepRunsTheCommand : Prop :=
  ∀ (s : State) (i : Instr), acceptedNow s = some i →
    step s = Result.andThen (exec i (sequencer (beginTick s))) (agents (nextInput s).stall)

/-- A tick in which a transport takes a code of the block runs that code: the reader a duty, the byte loop a byte of `FBB` or a zero byte
of a reset block, the serializer a 4-bit code (R198, R232, R235). That taking a code IS running an instruction is the MODEL's choice (log
entry 2). -/
def Obligations.StepRunsTheWireCode : Prop :=
  ∀ (s : State) (i : Instr), (nextInput s).rst = false → acceptedNow s = none →
    (s.cfg.backend = .A → let u := generator (sequencer (beginTick s))
      u.a.dmaEn = true → u.a.dmaReq = true → u.a.dmaRem ≠ 0#16 → (nextInput s).stall = false →
      u.a.dmaPtr.toNat < u.cfg.capA → decodeDuty u.cfg (readFba u u.a.dmaPtr.toNat) = .ok i →
      step s = Result.andThen (exec i u) (fun v => .next (endTickA v))) ∧
    (s.cfg.backend = .B → let u := sequencer (beginTick s)
      sending u = true → ∀ k, streamIndex u = some k → k < u.cfg.capB → decodeByte u.cfg (readFbb u k) = .ok i →
      step s = Result.andThen (exec i u) (fun v => serialize (loadB v))) ∧
    (s.cfg.backend = .B → let u := sequencer (beginTick s)
      sending u = true → streamIndex u = none →
      step s = Result.andThen (exec .bGuard u) (fun v => serialize (loadB v))) ∧
    (s.cfg.backend = .B → ∀ v, byteLoop (sequencer (beginTick s)) = .next v → windowStart (loadB v).b = true →
      decodeNibble v.cfg ((loadB v).b.sr.extractLsb' 4 4) = .ok i → step s = exec i (loadB v))

/-- A blocking operation cannot be disturbed or taken away (R28, R71, R78, R169, R171, R325): while one runs, the word on the command port
makes no difference at all, and neither does the strip state, which was sampled once: a step on any other strip is the same step with
that strip in it; a step that does not end the operation leaves the block busy; and `busy` rises only with an accepted `show` or `reset`. -/
def Obligations.NoCancellation : Prop :=
  (∀ (s : State) (p : PortIn) (rest : List PortIn) (w v : Option CmdWord),
    readyNow { s with inputs := { p with cmd := w } :: rest } = false →
    step { s with inputs := { p with cmd := w } :: rest } = step { s with inputs := { p with cmd := v } :: rest }) ∧
  (∀ (s : State) (other : Strip), readyNow s = false → (nextInput s).rst = false →
    step { s with strip := other } = Result.andThen (step s) (fun t => .next { t with strip := other })) ∧
  ∀ s t : State, step s = .next t → (nextInput s).rst = false →
    (readyNow s = false → t.busy = true) ∧
    (readyNow s = true → t.busy = true → acceptedNow s = some (.showFrame true) ∨ acceptedNow s = some (.resetLine true))

/-- The response channel: an answer for exactly the tick after a `get_pixel` or a `get_brightness` is accepted, and none in any
other (R96). -/
def Obligations.ResponseChannel : Prop :=
  ∀ s t : State, StripOk s → step s = .next t →
    (∀ h i, acceptedNow s = some (.getPixel h i) →
      rspValid t = true ∧ rspData t =
        if h = true ∧ i.toNat < s.strip.count.toNat then
          (readPix s i.toNat).r ++ (readPix s i.toNat).g ++ (readPix s i.toNat).b
        else 0#24) ∧
    (∀ h, acceptedNow s = some (.getBrightness h) →
      rspValid t = true ∧ rspData t = if h = true then s.strip.brightness.setWidth 24 else 0#24) ∧
    ((∀ h i, acceptedNow s ≠ some (.getPixel h i)) → (∀ h, acceptedNow s ≠ some (.getBrightness h)) →
      rspValid t = false)

/-- Hardware reset, whatever was in progress: every register with a specified reset value has it in the state that follows, the line is
low, the port ready and silent; no parameter changes (R50, R310, R51). -/
def Obligations.HardwareReset : Prop :=
  ∀ s : State, (nextInput s).rst = true → ∃ t, step s = .next t ∧
    t.strip.inited = false ∧ t.strip.count = 0#16 ∧ t.busy = false ∧ t.buildCnt = 0 ∧
    t.a.tstate = .idle ∧ t.a.tphase = .none ∧ t.a.pinMode = .gpio ∧ t.a.cnt = 0#16 ∧ t.a.pwmEn = false ∧ t.a.oe = false ∧
    t.a.ccrPre = 0#16 ∧ t.a.ccrAct = 0#16 ∧ t.a.uif = false ∧ t.a.dmaEn = false ∧ t.a.dmaReq = false ∧
    t.a.dmaTc = false ∧ t.a.settleCnt = 0#16 ∧
    t.b.drFull = false ∧ t.b.srCnt = 0#4 ∧ t.b.sbitCnt = 0 ∧ t.b.bpos = 0#16 ∧ t.b.blen = 0#16 ∧
    t.dout = false ∧ doutOf t = false ∧ cmdReady t = true ∧ rspValid t = false ∧ txe t.b = true ∧ spiTc t.b = true ∧
    t.cfg = s.cfg

/-- The state after reset has every value R50 gives, for every choice of parameters and of the contents R50 leaves unspecified, and holds
those contents, of registers and memories, as they were drawn. -/
def Obligations.ResetValues : Prop :=
  ∀ (c : Config) (u : ResetDraw), let t := State.resetWith c u
    t.strip.inited = false ∧ t.strip.count = 0#16 ∧ t.busy = false ∧
    t.a.tstate = .idle ∧ t.a.tphase = .none ∧ t.a.pinMode = .gpio ∧ t.a.cnt = 0#16 ∧ t.a.pwmEn = false ∧ t.a.oe = false ∧
    t.a.ccrPre = 0#16 ∧ t.a.ccrAct = 0#16 ∧ t.a.uif = false ∧ t.a.dmaEn = false ∧ t.a.dmaReq = false ∧
    t.a.dmaTc = false ∧ t.a.settleCnt = 0#16 ∧
    t.b.drFull = false ∧ t.b.srCnt = 0#4 ∧ t.b.sbitCnt = 0 ∧ t.b.bpos = 0#16 ∧ t.b.blen = 0#16 ∧
    doutOf t = false ∧ t.dout = false ∧ cmdReady t = true ∧ rspValid t = false ∧
    t.strip.brightness = u.brightness ∧ t.a.period = u.period ∧ t.a.dmaPtr = u.dmaPtr ∧ t.a.dmaRem = u.dmaRem ∧
    t.b.dr = u.dr ∧ t.b.sr = u.sr ∧
    (∀ i, i < c.maxLeds → readPix t i = u.pix.getD i { r := 0#8, g := 0#8, b := 0#8 }) ∧
    (∀ k, k < c.capA → readFba t k = u.fba.getD k 0#16) ∧ ∀ k, k < c.capB → readFbb t k = u.fbb.getD k 0#8

/-- The invariant holds right after reset, of a block of either backend with any legal parameters and any contents R50 leaves unspecified,
and so of `State.reset`, whose parameters and contents are the MODEL's choice (log entries 4 and 5). -/
def Obligations.InvariantAfterReset : Prop :=
  (∀ (c : Config) (u : ResetDraw), c.legal = true → BlockInv (State.resetWith c u)) ∧ BlockInv State.reset

/-- THE INVARIANT OF THE BLOCK IS KEPT BY EVERY STEP, of either backend, under any inputs: legal parameters, the strip's own invariant (R25),
canonical memories inside their capacities, and a transport whose registers fit what the block is doing (R33, R48, R193, R207, R240). -/
def Obligations.InvariantKept : Prop :=
  ∀ s t : State, BlockInv s → step s = .next t → BlockInv t

/-- From a state that meets the invariant a step always answers a next state, but for the one call the spec gives no meaning: an accepted
valid `init` on an initialised strip under `REINIT = refuse` (R62, R138, R280). -/
def Obligations.StepNeverFaults : Prop :=
  ∀ s : State, BlockInv s →
    (∃ t, step s = .next t) ∨
    (step s = .refused .secondInit ∧ s.strip.inited = true ∧ s.cfg.reinit = .refuse ∧
      ∃ n : Half, acceptedNow s = some (.init true true n) ∧ 1 ≤ n.toNat ∧ n.toNat ≤ s.cfg.maxLeds)

/-- The parameters are no state: no step writes one (R51), hardware reset included. -/
def Obligations.ParametersNeverChange : Prop :=
  ∀ (s t : State), (∀ i, exec i s = .next t → t.cfg = s.cfg) ∧ (step s = .next t → t.cfg = s.cfg)

/-- The line is high only while a blocking operation runs its transport, on Backend A only while the generator drives the pin within the
high phase of a period (R41, R207, R240, R264). -/
def Obligations.LineHighOnlyWhileATransportRuns : Prop :=
  ∀ s t : State, BlockInv s → step s = .next t → t.dout = true →
    t.busy = true ∧ t.buildCnt = 0 ∧
    (s.cfg.backend = .A → t.a.tstate = .transmitting ∧ t.a.pinMode = .pwm ∧ t.a.oe = true ∧ t.a.pwmEn = true ∧
      (sequencer (beginTick s)).a.cnt < t.a.ccrAct)
end

