-- ==== Sys2Proof/Laws/State.lean ====
section
/-! SUPPORT. One lemma per field per update of the state and of the two register records, so that no later proof unfolds a
record update. -/

namespace Sys2Proof.Machine

variable (s : State) (c : Config) (r : RegsA) (q : RegsB)

/-! ### Backend A registers -/

@[simp] theorem RegsA.settle_tstate : (RegsA.settle c r).tstate = r.tstate := rfl
@[simp] theorem RegsA.settle_tphase : (RegsA.settle c r).tphase = r.tphase := rfl
@[simp] theorem RegsA.settle_pinMode : (RegsA.settle c r).pinMode = .gpio := rfl
@[simp] theorem RegsA.settle_period : (RegsA.settle c r).period = r.period := rfl
@[simp] theorem RegsA.settle_cnt : (RegsA.settle c r).cnt = r.cnt := rfl
@[simp] theorem RegsA.settle_pwmEn : (RegsA.settle c r).pwmEn = r.pwmEn := rfl
@[simp] theorem RegsA.settle_oe : (RegsA.settle c r).oe = r.oe := rfl
@[simp] theorem RegsA.settle_ccrPre : (RegsA.settle c r).ccrPre = r.ccrPre := rfl
@[simp] theorem RegsA.settle_ccrAct : (RegsA.settle c r).ccrAct = r.ccrAct := rfl
@[simp] theorem RegsA.settle_uif : (RegsA.settle c r).uif = r.uif := rfl
@[simp] theorem RegsA.settle_dmaEn : (RegsA.settle c r).dmaEn = r.dmaEn := rfl
@[simp] theorem RegsA.settle_dmaReq : (RegsA.settle c r).dmaReq = r.dmaReq := rfl
@[simp] theorem RegsA.settle_dmaPtr : (RegsA.settle c r).dmaPtr = r.dmaPtr := rfl
@[simp] theorem RegsA.settle_dmaRem : (RegsA.settle c r).dmaRem = r.dmaRem := rfl
@[simp] theorem RegsA.settle_dmaTc : (RegsA.settle c r).dmaTc = r.dmaTc := rfl
@[simp] theorem RegsA.settle_settleCnt : (RegsA.settle c r).settleCnt = BitVec.ofNat 16 c.settleTicks := rfl
@[simp] theorem RegsA.arm_tstate (n : Nat) : (RegsA.arm c n r).tstate = .armed := rfl
@[simp] theorem RegsA.arm_tphase (n : Nat) : (RegsA.arm c n r).tphase = .none := rfl
@[simp] theorem RegsA.arm_pinMode (n : Nat) : (RegsA.arm c n r).pinMode = r.pinMode := rfl
@[simp] theorem RegsA.arm_period (n : Nat) : (RegsA.arm c n r).period = BitVec.ofNat 16 c.periodTicks := rfl
@[simp] theorem RegsA.arm_cnt (n : Nat) : (RegsA.arm c n r).cnt = 0#16 := rfl
@[simp] theorem RegsA.arm_pwmEn (n : Nat) : (RegsA.arm c n r).pwmEn = r.pwmEn := rfl
@[simp] theorem RegsA.arm_oe (n : Nat) : (RegsA.arm c n r).oe = r.oe := rfl
@[simp] theorem RegsA.arm_ccrPre (n : Nat) : (RegsA.arm c n r).ccrPre = r.ccrPre := rfl
@[simp] theorem RegsA.arm_ccrAct (n : Nat) : (RegsA.arm c n r).ccrAct = r.ccrAct := rfl
@[simp] theorem RegsA.arm_uif (n : Nat) : (RegsA.arm c n r).uif = false := rfl
@[simp] theorem RegsA.arm_dmaEn (n : Nat) : (RegsA.arm c n r).dmaEn = true := rfl
@[simp] theorem RegsA.arm_dmaReq (n : Nat) : (RegsA.arm c n r).dmaReq = true := rfl
@[simp] theorem RegsA.arm_dmaPtr (n : Nat) : (RegsA.arm c n r).dmaPtr = 0#16 := rfl
@[simp] theorem RegsA.arm_dmaRem (n : Nat) : (RegsA.arm c n r).dmaRem = BitVec.ofNat 16 n := rfl
@[simp] theorem RegsA.arm_dmaTc (n : Nat) : (RegsA.arm c n r).dmaTc = false := rfl
@[simp] theorem RegsA.arm_settleCnt (n : Nat) : (RegsA.arm c n r).settleCnt = r.settleCnt := rfl
@[simp] theorem RegsA.start_tstate : r.start.tstate = .transmitting := rfl
@[simp] theorem RegsA.start_tphase : r.start.tphase = .waitTc := rfl
@[simp] theorem RegsA.start_pinMode : r.start.pinMode = .pwm := rfl
@[simp] theorem RegsA.start_period : r.start.period = r.period := rfl
@[simp] theorem RegsA.start_cnt : r.start.cnt = r.cnt := rfl
@[simp] theorem RegsA.start_pwmEn : r.start.pwmEn = true := rfl
@[simp] theorem RegsA.start_oe : r.start.oe = true := rfl
@[simp] theorem RegsA.start_ccrPre : r.start.ccrPre = r.ccrPre := rfl
@[simp] theorem RegsA.start_ccrAct : r.start.ccrAct = r.ccrAct := rfl
@[simp] theorem RegsA.start_uif : r.start.uif = r.uif := rfl
@[simp] theorem RegsA.start_dmaEn : r.start.dmaEn = r.dmaEn := rfl
@[simp] theorem RegsA.start_dmaReq : r.start.dmaReq = r.dmaReq := rfl
@[simp] theorem RegsA.start_dmaPtr : r.start.dmaPtr = r.dmaPtr := rfl
@[simp] theorem RegsA.start_dmaRem : r.start.dmaRem = r.dmaRem := rfl
@[simp] theorem RegsA.start_dmaTc : r.start.dmaTc = r.dmaTc := rfl
@[simp] theorem RegsA.start_settleCnt : r.start.settleCnt = r.settleCnt := rfl
@[simp] theorem RegsA.awaitBoundary_tstate : r.awaitBoundary.tstate = r.tstate := rfl
@[simp] theorem RegsA.awaitBoundary_tphase : r.awaitBoundary.tphase = .waitUev := rfl
@[simp] theorem RegsA.awaitBoundary_pinMode : r.awaitBoundary.pinMode = r.pinMode := rfl
@[simp] theorem RegsA.awaitBoundary_period : r.awaitBoundary.period = r.period := rfl
@[simp] theorem RegsA.awaitBoundary_cnt : r.awaitBoundary.cnt = r.cnt := rfl
@[simp] theorem RegsA.awaitBoundary_pwmEn : r.awaitBoundary.pwmEn = r.pwmEn := rfl
@[simp] theorem RegsA.awaitBoundary_oe : r.awaitBoundary.oe = r.oe := rfl
@[simp] theorem RegsA.awaitBoundary_ccrPre : r.awaitBoundary.ccrPre = r.ccrPre := rfl
@[simp] theorem RegsA.awaitBoundary_ccrAct : r.awaitBoundary.ccrAct = r.ccrAct := rfl
@[simp] theorem RegsA.awaitBoundary_uif : r.awaitBoundary.uif = false := rfl
@[simp] theorem RegsA.awaitBoundary_dmaEn : r.awaitBoundary.dmaEn = r.dmaEn := rfl
@[simp] theorem RegsA.awaitBoundary_dmaReq : r.awaitBoundary.dmaReq = r.dmaReq := rfl
@[simp] theorem RegsA.awaitBoundary_dmaPtr : r.awaitBoundary.dmaPtr = r.dmaPtr := rfl
@[simp] theorem RegsA.awaitBoundary_dmaRem : r.awaitBoundary.dmaRem = r.dmaRem := rfl
@[simp] theorem RegsA.awaitBoundary_dmaTc : r.awaitBoundary.dmaTc = r.dmaTc := rfl
@[simp] theorem RegsA.awaitBoundary_settleCnt : r.awaitBoundary.settleCnt = r.settleCnt := rfl
@[simp] theorem RegsA.stop_tstate : (RegsA.stop c r).tstate = r.tstate := rfl
@[simp] theorem RegsA.stop_tphase : (RegsA.stop c r).tphase = .postSettle := rfl
@[simp] theorem RegsA.stop_pinMode : (RegsA.stop c r).pinMode = .gpio := rfl
@[simp] theorem RegsA.stop_period : (RegsA.stop c r).period = r.period := rfl
@[simp] theorem RegsA.stop_cnt : (RegsA.stop c r).cnt = r.cnt := rfl
@[simp] theorem RegsA.stop_pwmEn : (RegsA.stop c r).pwmEn = false := rfl
@[simp] theorem RegsA.stop_oe : (RegsA.stop c r).oe = false := rfl
@[simp] theorem RegsA.stop_ccrPre : (RegsA.stop c r).ccrPre = r.ccrPre := rfl
@[simp] theorem RegsA.stop_ccrAct : (RegsA.stop c r).ccrAct = r.ccrAct := rfl
@[simp] theorem RegsA.stop_uif : (RegsA.stop c r).uif = r.uif := rfl
@[simp] theorem RegsA.stop_dmaEn : (RegsA.stop c r).dmaEn = false := rfl
@[simp] theorem RegsA.stop_dmaReq : (RegsA.stop c r).dmaReq = false := rfl
@[simp] theorem RegsA.stop_dmaPtr : (RegsA.stop c r).dmaPtr = r.dmaPtr := rfl
@[simp] theorem RegsA.stop_dmaRem : (RegsA.stop c r).dmaRem = r.dmaRem := rfl
@[simp] theorem RegsA.stop_dmaTc : (RegsA.stop c r).dmaTc = r.dmaTc := rfl
@[simp] theorem RegsA.stop_settleCnt : (RegsA.stop c r).settleCnt = BitVec.ofNat 16 c.settleTicks := rfl
@[simp] theorem RegsA.rest_tstate : r.rest.tstate = .idle := rfl
@[simp] theorem RegsA.rest_tphase : r.rest.tphase = .none := rfl
@[simp] theorem RegsA.rest_pinMode : r.rest.pinMode = r.pinMode := rfl
@[simp] theorem RegsA.rest_period : r.rest.period = r.period := rfl
@[simp] theorem RegsA.rest_cnt : r.rest.cnt = r.cnt := rfl
@[simp] theorem RegsA.rest_pwmEn : r.rest.pwmEn = r.pwmEn := rfl
@[simp] theorem RegsA.rest_oe : r.rest.oe = r.oe := rfl
@[simp] theorem RegsA.rest_ccrPre : r.rest.ccrPre = r.ccrPre := rfl
@[simp] theorem RegsA.rest_ccrAct : r.rest.ccrAct = r.ccrAct := rfl
@[simp] theorem RegsA.rest_uif : r.rest.uif = r.uif := rfl
@[simp] theorem RegsA.rest_dmaEn : r.rest.dmaEn = r.dmaEn := rfl
@[simp] theorem RegsA.rest_dmaReq : r.rest.dmaReq = r.dmaReq := rfl
@[simp] theorem RegsA.rest_dmaPtr : r.rest.dmaPtr = r.dmaPtr := rfl
@[simp] theorem RegsA.rest_dmaRem : r.rest.dmaRem = r.dmaRem := rfl
@[simp] theorem RegsA.rest_dmaTc : r.rest.dmaTc = r.dmaTc := rfl
@[simp] theorem RegsA.rest_settleCnt : r.rest.settleCnt = r.settleCnt := rfl
@[simp] theorem RegsA.setup_tstate : (RegsA.setup c r).tstate = .idle := rfl
@[simp] theorem RegsA.setup_tphase : (RegsA.setup c r).tphase = .none := rfl
@[simp] theorem RegsA.setup_pinMode : (RegsA.setup c r).pinMode = .gpio := rfl
@[simp] theorem RegsA.setup_period : (RegsA.setup c r).period = BitVec.ofNat 16 c.periodTicks := rfl
@[simp] theorem RegsA.setup_cnt : (RegsA.setup c r).cnt = 0#16 := rfl
@[simp] theorem RegsA.setup_pwmEn : (RegsA.setup c r).pwmEn = false := rfl
@[simp] theorem RegsA.setup_oe : (RegsA.setup c r).oe = false := rfl
@[simp] theorem RegsA.setup_ccrPre : (RegsA.setup c r).ccrPre = 0#16 := rfl
@[simp] theorem RegsA.setup_ccrAct : (RegsA.setup c r).ccrAct = 0#16 := rfl
@[simp] theorem RegsA.setup_uif : (RegsA.setup c r).uif = false := rfl
@[simp] theorem RegsA.setup_dmaEn : (RegsA.setup c r).dmaEn = false := rfl
@[simp] theorem RegsA.setup_dmaReq : (RegsA.setup c r).dmaReq = false := rfl
@[simp] theorem RegsA.setup_dmaPtr : (RegsA.setup c r).dmaPtr = r.dmaPtr := rfl
@[simp] theorem RegsA.setup_dmaRem : (RegsA.setup c r).dmaRem = r.dmaRem := rfl
@[simp] theorem RegsA.setup_dmaTc : (RegsA.setup c r).dmaTc = false := rfl
@[simp] theorem RegsA.setup_settleCnt : (RegsA.setup c r).settleCnt = 0#16 := rfl
@[simp] theorem RegsA.transfer_tstate (d : Duty) : (RegsA.transfer d r).tstate = r.tstate := rfl
@[simp] theorem RegsA.transfer_tphase (d : Duty) : (RegsA.transfer d r).tphase = r.tphase := rfl
@[simp] theorem RegsA.transfer_pinMode (d : Duty) : (RegsA.transfer d r).pinMode = r.pinMode := rfl
@[simp] theorem RegsA.transfer_period (d : Duty) : (RegsA.transfer d r).period = r.period := rfl
@[simp] theorem RegsA.transfer_cnt (d : Duty) : (RegsA.transfer d r).cnt = r.cnt := rfl
@[simp] theorem RegsA.transfer_pwmEn (d : Duty) : (RegsA.transfer d r).pwmEn = r.pwmEn := rfl
@[simp] theorem RegsA.transfer_oe (d : Duty) : (RegsA.transfer d r).oe = r.oe := rfl
@[simp] theorem RegsA.transfer_ccrPre (d : Duty) : (RegsA.transfer d r).ccrPre = d := rfl
@[simp] theorem RegsA.transfer_ccrAct (d : Duty) : (RegsA.transfer d r).ccrAct = r.ccrAct := rfl
@[simp] theorem RegsA.transfer_uif (d : Duty) : (RegsA.transfer d r).uif = r.uif := rfl
@[simp] theorem RegsA.transfer_dmaEn (d : Duty) : (RegsA.transfer d r).dmaEn = r.dmaEn := rfl
@[simp] theorem RegsA.transfer_dmaReq (d : Duty) : (RegsA.transfer d r).dmaReq = false := rfl
@[simp] theorem RegsA.transfer_dmaPtr (d : Duty) : (RegsA.transfer d r).dmaPtr = r.dmaPtr + 1#16 := rfl
@[simp] theorem RegsA.transfer_dmaRem (d : Duty) : (RegsA.transfer d r).dmaRem = r.dmaRem - 1#16 := rfl
@[simp] theorem RegsA.transfer_dmaTc (d : Duty) : (RegsA.transfer d r).dmaTc = (r.dmaTc || r.dmaRem - 1#16 == 0#16) := rfl
@[simp] theorem RegsA.transfer_settleCnt (d : Duty) : (RegsA.transfer d r).settleCnt = r.settleCnt := rfl
@[simp] theorem RegsA.boundary_tstate : r.boundary.tstate = r.tstate := rfl
@[simp] theorem RegsA.boundary_tphase : r.boundary.tphase = r.tphase := rfl
@[simp] theorem RegsA.boundary_pinMode : r.boundary.pinMode = r.pinMode := rfl
@[simp] theorem RegsA.boundary_period : r.boundary.period = r.period := rfl
@[simp] theorem RegsA.boundary_cnt : r.boundary.cnt = r.cnt := rfl
@[simp] theorem RegsA.boundary_pwmEn : r.boundary.pwmEn = r.pwmEn := rfl
@[simp] theorem RegsA.boundary_oe : r.boundary.oe = r.oe := rfl
@[simp] theorem RegsA.boundary_ccrPre : r.boundary.ccrPre = r.ccrPre := rfl
@[simp] theorem RegsA.boundary_ccrAct : r.boundary.ccrAct = r.ccrPre := rfl
@[simp] theorem RegsA.boundary_uif : r.boundary.uif = true := rfl
@[simp] theorem RegsA.boundary_dmaEn : r.boundary.dmaEn = r.dmaEn := rfl
@[simp] theorem RegsA.boundary_dmaReq : r.boundary.dmaReq = (r.dmaReq || r.dmaEn) := rfl
@[simp] theorem RegsA.boundary_dmaPtr : r.boundary.dmaPtr = r.dmaPtr := rfl
@[simp] theorem RegsA.boundary_dmaRem : r.boundary.dmaRem = r.dmaRem := rfl
@[simp] theorem RegsA.boundary_dmaTc : r.boundary.dmaTc = r.dmaTc := rfl
@[simp] theorem RegsA.boundary_settleCnt : r.boundary.settleCnt = r.settleCnt := rfl
@[simp] theorem RegsA.count_tstate : r.count.tstate = r.tstate := by unfold RegsA.count; split <;> rfl
@[simp] theorem RegsA.count_tphase : r.count.tphase = r.tphase := by unfold RegsA.count; split <;> rfl
@[simp] theorem RegsA.count_pinMode : r.count.pinMode = r.pinMode := by unfold RegsA.count; split <;> rfl
@[simp] theorem RegsA.count_period : r.count.period = r.period := by unfold RegsA.count; split <;> rfl
@[simp] theorem RegsA.count_pwmEn : r.count.pwmEn = r.pwmEn := by unfold RegsA.count; split <;> rfl
@[simp] theorem RegsA.count_oe : r.count.oe = r.oe := by unfold RegsA.count; split <;> rfl
@[simp] theorem RegsA.count_ccrPre : r.count.ccrPre = r.ccrPre := by unfold RegsA.count; split <;> rfl
@[simp] theorem RegsA.count_ccrAct : r.count.ccrAct = r.ccrAct := by unfold RegsA.count; split <;> rfl
@[simp] theorem RegsA.count_uif : r.count.uif = r.uif := by unfold RegsA.count; split <;> rfl
@[simp] theorem RegsA.count_dmaEn : r.count.dmaEn = r.dmaEn := by unfold RegsA.count; split <;> rfl
@[simp] theorem RegsA.count_dmaReq : r.count.dmaReq = r.dmaReq := by unfold RegsA.count; split <;> rfl
@[simp] theorem RegsA.count_dmaPtr : r.count.dmaPtr = r.dmaPtr := by unfold RegsA.count; split <;> rfl
@[simp] theorem RegsA.count_dmaRem : r.count.dmaRem = r.dmaRem := by unfold RegsA.count; split <;> rfl
@[simp] theorem RegsA.count_dmaTc : r.count.dmaTc = r.dmaTc := by unfold RegsA.count; split <;> rfl
@[simp] theorem RegsA.count_settleCnt : r.count.settleCnt = r.settleCnt := by unfold RegsA.count; split <;> rfl
@[simp] theorem RegsA.settleDown_tstate : r.settleDown.tstate = r.tstate := by unfold RegsA.settleDown; split <;> rfl
@[simp] theorem RegsA.settleDown_tphase : r.settleDown.tphase = r.tphase := by unfold RegsA.settleDown; split <;> rfl
@[simp] theorem RegsA.settleDown_pinMode : r.settleDown.pinMode = r.pinMode := by unfold RegsA.settleDown; split <;> rfl
@[simp] theorem RegsA.settleDown_period : r.settleDown.period = r.period := by unfold RegsA.settleDown; split <;> rfl
@[simp] theorem RegsA.settleDown_cnt : r.settleDown.cnt = r.cnt := by unfold RegsA.settleDown; split <;> rfl
@[simp] theorem RegsA.settleDown_pwmEn : r.settleDown.pwmEn = r.pwmEn := by unfold RegsA.settleDown; split <;> rfl
@[simp] theorem RegsA.settleDown_oe : r.settleDown.oe = r.oe := by unfold RegsA.settleDown; split <;> rfl
@[simp] theorem RegsA.settleDown_ccrPre : r.settleDown.ccrPre = r.ccrPre := by unfold RegsA.settleDown; split <;> rfl
@[simp] theorem RegsA.settleDown_ccrAct : r.settleDown.ccrAct = r.ccrAct := by unfold RegsA.settleDown; split <;> rfl
@[simp] theorem RegsA.settleDown_uif : r.settleDown.uif = r.uif := by unfold RegsA.settleDown; split <;> rfl
@[simp] theorem RegsA.settleDown_dmaEn : r.settleDown.dmaEn = r.dmaEn := by unfold RegsA.settleDown; split <;> rfl
@[simp] theorem RegsA.settleDown_dmaReq : r.settleDown.dmaReq = r.dmaReq := by unfold RegsA.settleDown; split <;> rfl
@[simp] theorem RegsA.settleDown_dmaPtr : r.settleDown.dmaPtr = r.dmaPtr := by unfold RegsA.settleDown; split <;> rfl
@[simp] theorem RegsA.settleDown_dmaRem : r.settleDown.dmaRem = r.dmaRem := by unfold RegsA.settleDown; split <;> rfl
@[simp] theorem RegsA.settleDown_dmaTc : r.settleDown.dmaTc = r.dmaTc := by unfold RegsA.settleDown; split <;> rfl

/-! ### Backend B registers -/

@[simp] theorem RegsB.begin_dr (n : Nat) : (RegsB.begin n q).dr = q.dr := rfl
@[simp] theorem RegsB.begin_drFull (n : Nat) : (RegsB.begin n q).drFull = q.drFull := rfl
@[simp] theorem RegsB.begin_sr (n : Nat) : (RegsB.begin n q).sr = q.sr := rfl
@[simp] theorem RegsB.begin_srCnt (n : Nat) : (RegsB.begin n q).srCnt = q.srCnt := rfl
@[simp] theorem RegsB.begin_sbitCnt (n : Nat) : (RegsB.begin n q).sbitCnt = q.sbitCnt := rfl
@[simp] theorem RegsB.begin_bpos (n : Nat) : (RegsB.begin n q).bpos = 0#16 := rfl
@[simp] theorem RegsB.begin_blen (n : Nat) : (RegsB.begin n q).blen = BitVec.ofNat 16 n := rfl
@[simp] theorem RegsB.setup_dr : (RegsB.setup  q).dr = q.dr := rfl
@[simp] theorem RegsB.setup_drFull : (RegsB.setup  q).drFull = false := rfl
@[simp] theorem RegsB.setup_sr : (RegsB.setup  q).sr = q.sr := rfl
@[simp] theorem RegsB.setup_srCnt : (RegsB.setup  q).srCnt = 0#4 := rfl
@[simp] theorem RegsB.setup_sbitCnt : (RegsB.setup  q).sbitCnt = 0 := rfl
@[simp] theorem RegsB.setup_bpos : (RegsB.setup  q).bpos = 0#16 := rfl
@[simp] theorem RegsB.setup_blen : (RegsB.setup  q).blen = 0#16 := rfl
@[simp] theorem RegsB.send_dr (y : Byte) : (RegsB.send y q).dr = y := rfl
@[simp] theorem RegsB.send_drFull (y : Byte) : (RegsB.send y q).drFull = true := rfl
@[simp] theorem RegsB.send_sr (y : Byte) : (RegsB.send y q).sr = q.sr := rfl
@[simp] theorem RegsB.send_srCnt (y : Byte) : (RegsB.send y q).srCnt = q.srCnt := rfl
@[simp] theorem RegsB.send_sbitCnt (y : Byte) : (RegsB.send y q).sbitCnt = q.sbitCnt := rfl
@[simp] theorem RegsB.send_bpos (y : Byte) : (RegsB.send y q).bpos = q.bpos + 1#16 := rfl
@[simp] theorem RegsB.send_blen (y : Byte) : (RegsB.send y q).blen = q.blen := rfl
@[simp] theorem RegsB.head_dr (n : Nibble) : (RegsB.head n q).dr = q.dr := rfl
@[simp] theorem RegsB.head_drFull (n : Nibble) : (RegsB.head n q).drFull = q.drFull := rfl
@[simp] theorem RegsB.head_sr (n : Nibble) : (RegsB.head n q).sr = n ++ q.sr.extractLsb' 0 4 := rfl
@[simp] theorem RegsB.head_srCnt (n : Nibble) : (RegsB.head n q).srCnt = q.srCnt := rfl
@[simp] theorem RegsB.head_sbitCnt (n : Nibble) : (RegsB.head n q).sbitCnt = q.sbitCnt := rfl
@[simp] theorem RegsB.head_bpos (n : Nibble) : (RegsB.head n q).bpos = q.bpos := rfl
@[simp] theorem RegsB.head_blen (n : Nibble) : (RegsB.head n q).blen = q.blen := rfl
@[simp] theorem RegsB.load_dr : (RegsB.load q).dr = q.dr := by unfold RegsB.load; (repeat' split) <;> rfl
@[simp] theorem RegsB.load_bpos : (RegsB.load q).bpos = q.bpos := by unfold RegsB.load; (repeat' split) <;> rfl
@[simp] theorem RegsB.load_blen : (RegsB.load q).blen = q.blen := by unfold RegsB.load; (repeat' split) <;> rfl
@[simp] theorem RegsB.shift_dr : (RegsB.shift c q).dr = q.dr := by unfold RegsB.shift; (repeat' split) <;> rfl
@[simp] theorem RegsB.shift_drFull : (RegsB.shift c q).drFull = q.drFull := by unfold RegsB.shift; (repeat' split) <;> rfl
@[simp] theorem RegsB.shift_bpos : (RegsB.shift c q).bpos = q.bpos := by unfold RegsB.shift; (repeat' split) <;> rfl
@[simp] theorem RegsB.shift_blen : (RegsB.shift c q).blen = q.blen := by unfold RegsB.shift; (repeat' split) <;> rfl

/-! ### The whole state -/

@[simp] theorem writePix_cfg (i : Nat) (p : Pixel) : (writePix i p s).cfg = s.cfg := rfl
@[simp] theorem writePix_fba (i : Nat) (p : Pixel) : (writePix i p s).fba = s.fba := rfl
@[simp] theorem writePix_fbb (i : Nat) (p : Pixel) : (writePix i p s).fbb = s.fbb := rfl
@[simp] theorem writePix_busy (i : Nat) (p : Pixel) : (writePix i p s).busy = s.busy := rfl
@[simp] theorem writePix_buildCnt (i : Nat) (p : Pixel) : (writePix i p s).buildCnt = s.buildCnt := rfl
@[simp] theorem writePix_showN (i : Nat) (p : Pixel) : (writePix i p s).showN = s.showN := rfl
@[simp] theorem writePix_a (i : Nat) (p : Pixel) : (writePix i p s).a = s.a := rfl
@[simp] theorem writePix_b (i : Nat) (p : Pixel) : (writePix i p s).b = s.b := rfl
@[simp] theorem writePix_rsp (i : Nat) (p : Pixel) : (writePix i p s).rsp = s.rsp := rfl
@[simp] theorem writePix_dout (i : Nat) (p : Pixel) : (writePix i p s).dout = s.dout := rfl
@[simp] theorem writePix_inputs (i : Nat) (p : Pixel) : (writePix i p s).inputs = s.inputs := rfl
@[simp] theorem writePix_restStall (i : Nat) (p : Pixel) : (writePix i p s).restStall = s.restStall := rfl
@[simp] theorem writePix_ticks (i : Nat) (p : Pixel) : (writePix i p s).ticks = s.ticks := rfl
@[simp] theorem clearPix_cfg (n : Nat) : (clearPix n s).cfg = s.cfg := rfl
@[simp] theorem clearPix_fba (n : Nat) : (clearPix n s).fba = s.fba := rfl
@[simp] theorem clearPix_fbb (n : Nat) : (clearPix n s).fbb = s.fbb := rfl
@[simp] theorem clearPix_busy (n : Nat) : (clearPix n s).busy = s.busy := rfl
@[simp] theorem clearPix_buildCnt (n : Nat) : (clearPix n s).buildCnt = s.buildCnt := rfl
@[simp] theorem clearPix_showN (n : Nat) : (clearPix n s).showN = s.showN := rfl
@[simp] theorem clearPix_a (n : Nat) : (clearPix n s).a = s.a := rfl
@[simp] theorem clearPix_b (n : Nat) : (clearPix n s).b = s.b := rfl
@[simp] theorem clearPix_rsp (n : Nat) : (clearPix n s).rsp = s.rsp := rfl
@[simp] theorem clearPix_dout (n : Nat) : (clearPix n s).dout = s.dout := rfl
@[simp] theorem clearPix_inputs (n : Nat) : (clearPix n s).inputs = s.inputs := rfl
@[simp] theorem clearPix_restStall (n : Nat) : (clearPix n s).restStall = s.restStall := rfl
@[simp] theorem clearPix_ticks (n : Nat) : (clearPix n s).ticks = s.ticks := rfl
@[simp] theorem beginTick_cfg : (beginTick s).cfg = s.cfg := rfl
@[simp] theorem beginTick_strip : (beginTick s).strip = s.strip := rfl
@[simp] theorem beginTick_fba : (beginTick s).fba = s.fba := rfl
@[simp] theorem beginTick_fbb : (beginTick s).fbb = s.fbb := rfl
@[simp] theorem beginTick_busy : (beginTick s).busy = s.busy := rfl
@[simp] theorem beginTick_buildCnt : (beginTick s).buildCnt = s.buildCnt := rfl
@[simp] theorem beginTick_showN : (beginTick s).showN = s.showN := rfl
@[simp] theorem beginTick_a : (beginTick s).a = s.a := rfl
@[simp] theorem beginTick_b : (beginTick s).b = s.b := rfl
@[simp] theorem beginTick_rsp : (beginTick s).rsp = none := rfl
@[simp] theorem beginTick_dout : (beginTick s).dout = s.dout := rfl
@[simp] theorem beginTick_inputs : (beginTick s).inputs = s.inputs.tail := rfl
@[simp] theorem beginTick_restStall : (beginTick s).restStall = s.restStall := rfl
@[simp] theorem beginTick_ticks : (beginTick s).ticks = s.ticks + 1 := rfl
@[simp] theorem hardwareReset_cfg : (hardwareReset s).cfg = s.cfg := rfl
@[simp] theorem hardwareReset_strip : (hardwareReset s).strip = Strip.reset s.cfg (Config.freeDraw s.ticks) := rfl
@[simp] theorem hardwareReset_busy : (hardwareReset s).busy = false := rfl
@[simp] theorem hardwareReset_buildCnt : (hardwareReset s).buildCnt = 0 := rfl
@[simp] theorem hardwareReset_showN : (hardwareReset s).showN = 0#16 := rfl
@[simp] theorem hardwareReset_a : (hardwareReset s).a = RegsA.reset (Config.freeDraw s.ticks) := rfl
@[simp] theorem hardwareReset_b : (hardwareReset s).b = RegsB.reset (Config.freeDraw s.ticks) := rfl
@[simp] theorem hardwareReset_rsp : (hardwareReset s).rsp = none := rfl
@[simp] theorem hardwareReset_dout : (hardwareReset s).dout = false := rfl
@[simp] theorem hardwareReset_inputs : (hardwareReset s).inputs = s.inputs := rfl
@[simp] theorem hardwareReset_restStall : (hardwareReset s).restStall = s.restStall := rfl
@[simp] theorem hardwareReset_ticks : (hardwareReset s).ticks = s.ticks := rfl
@[simp] theorem moveDuty_cfg (d : Duty) : (moveDuty d s).cfg = s.cfg := rfl
@[simp] theorem moveDuty_strip (d : Duty) : (moveDuty d s).strip = s.strip := rfl
@[simp] theorem moveDuty_fba (d : Duty) : (moveDuty d s).fba = s.fba := rfl
@[simp] theorem moveDuty_fbb (d : Duty) : (moveDuty d s).fbb = s.fbb := rfl
@[simp] theorem moveDuty_busy (d : Duty) : (moveDuty d s).busy = s.busy := rfl
@[simp] theorem moveDuty_buildCnt (d : Duty) : (moveDuty d s).buildCnt = s.buildCnt := rfl
@[simp] theorem moveDuty_showN (d : Duty) : (moveDuty d s).showN = s.showN := rfl
@[simp] theorem moveDuty_a (d : Duty) : (moveDuty d s).a = s.a.transfer d := rfl
@[simp] theorem moveDuty_b (d : Duty) : (moveDuty d s).b = s.b := rfl
@[simp] theorem moveDuty_rsp (d : Duty) : (moveDuty d s).rsp = s.rsp := rfl
@[simp] theorem moveDuty_dout (d : Duty) : (moveDuty d s).dout = s.dout := rfl
@[simp] theorem moveDuty_inputs (d : Duty) : (moveDuty d s).inputs = s.inputs := rfl
@[simp] theorem moveDuty_restStall (d : Duty) : (moveDuty d s).restStall = s.restStall := rfl
@[simp] theorem moveDuty_ticks (d : Duty) : (moveDuty d s).ticks = s.ticks := rfl
@[simp] theorem writeByte_cfg (y : Byte) : (writeByte y s).cfg = s.cfg := rfl
@[simp] theorem writeByte_strip (y : Byte) : (writeByte y s).strip = s.strip := rfl
@[simp] theorem writeByte_fba (y : Byte) : (writeByte y s).fba = s.fba := rfl
@[simp] theorem writeByte_fbb (y : Byte) : (writeByte y s).fbb = s.fbb := rfl
@[simp] theorem writeByte_busy (y : Byte) : (writeByte y s).busy = s.busy := rfl
@[simp] theorem writeByte_buildCnt (y : Byte) : (writeByte y s).buildCnt = s.buildCnt := rfl
@[simp] theorem writeByte_showN (y : Byte) : (writeByte y s).showN = s.showN := rfl
@[simp] theorem writeByte_a (y : Byte) : (writeByte y s).a = s.a := rfl
@[simp] theorem writeByte_b (y : Byte) : (writeByte y s).b = s.b.send y := rfl
@[simp] theorem writeByte_rsp (y : Byte) : (writeByte y s).rsp = s.rsp := rfl
@[simp] theorem writeByte_dout (y : Byte) : (writeByte y s).dout = s.dout := rfl
@[simp] theorem writeByte_inputs (y : Byte) : (writeByte y s).inputs = s.inputs := rfl
@[simp] theorem writeByte_restStall (y : Byte) : (writeByte y s).restStall = s.restStall := rfl
@[simp] theorem writeByte_ticks (y : Byte) : (writeByte y s).ticks = s.ticks := rfl
@[simp] theorem endTickA_cfg : (endTickA s).cfg = s.cfg := rfl
@[simp] theorem endTickA_strip : (endTickA s).strip = s.strip := rfl
@[simp] theorem endTickA_fba : (endTickA s).fba = s.fba := rfl
@[simp] theorem endTickA_fbb : (endTickA s).fbb = s.fbb := rfl
@[simp] theorem endTickA_busy : (endTickA s).busy = s.busy := rfl
@[simp] theorem endTickA_buildCnt : (endTickA s).buildCnt = s.buildCnt := rfl
@[simp] theorem endTickA_showN : (endTickA s).showN = s.showN := rfl
@[simp] theorem endTickA_a : (endTickA s).a = s.a.count.settleDown := rfl
@[simp] theorem endTickA_b : (endTickA s).b = s.b := rfl
@[simp] theorem endTickA_rsp : (endTickA s).rsp = s.rsp := rfl
@[simp] theorem endTickA_dout : (endTickA s).dout = doutA s.a := rfl
@[simp] theorem endTickA_inputs : (endTickA s).inputs = s.inputs := rfl
@[simp] theorem endTickA_restStall : (endTickA s).restStall = s.restStall := rfl
@[simp] theorem endTickA_ticks : (endTickA s).ticks = s.ticks := rfl
@[simp] theorem endTickB_cfg : (endTickB s).cfg = s.cfg := rfl
@[simp] theorem endTickB_strip : (endTickB s).strip = s.strip := rfl
@[simp] theorem endTickB_fba : (endTickB s).fba = s.fba := rfl
@[simp] theorem endTickB_fbb : (endTickB s).fbb = s.fbb := rfl
@[simp] theorem endTickB_busy : (endTickB s).busy = s.busy := rfl
@[simp] theorem endTickB_buildCnt : (endTickB s).buildCnt = s.buildCnt := rfl
@[simp] theorem endTickB_showN : (endTickB s).showN = s.showN := rfl
@[simp] theorem endTickB_a : (endTickB s).a = s.a := rfl
@[simp] theorem endTickB_b : (endTickB s).b = s.b.shift s.cfg := rfl
@[simp] theorem endTickB_rsp : (endTickB s).rsp = s.rsp := rfl
@[simp] theorem endTickB_dout : (endTickB s).dout = doutB s.b := rfl
@[simp] theorem endTickB_inputs : (endTickB s).inputs = s.inputs := rfl
@[simp] theorem endTickB_restStall : (endTickB s).restStall = s.restStall := rfl
@[simp] theorem endTickB_ticks : (endTickB s).ticks = s.ticks := rfl
@[simp] theorem playNibble_cfg (n : Nibble) : (playNibble n s).cfg = s.cfg := rfl
@[simp] theorem playNibble_strip (n : Nibble) : (playNibble n s).strip = s.strip := rfl
@[simp] theorem playNibble_fba (n : Nibble) : (playNibble n s).fba = s.fba := rfl
@[simp] theorem playNibble_fbb (n : Nibble) : (playNibble n s).fbb = s.fbb := rfl
@[simp] theorem playNibble_busy (n : Nibble) : (playNibble n s).busy = s.busy := rfl
@[simp] theorem playNibble_buildCnt (n : Nibble) : (playNibble n s).buildCnt = s.buildCnt := rfl
@[simp] theorem playNibble_showN (n : Nibble) : (playNibble n s).showN = s.showN := rfl
@[simp] theorem playNibble_a (n : Nibble) : (playNibble n s).a = s.a := rfl
@[simp] theorem playNibble_b (n : Nibble) : (playNibble n s).b = (s.b.head n).shift s.cfg := rfl
@[simp] theorem playNibble_rsp (n : Nibble) : (playNibble n s).rsp = s.rsp := rfl
@[simp] theorem playNibble_dout (n : Nibble) : (playNibble n s).dout = doutB (s.b.head n) := rfl
@[simp] theorem playNibble_inputs (n : Nibble) : (playNibble n s).inputs = s.inputs := rfl
@[simp] theorem playNibble_restStall (n : Nibble) : (playNibble n s).restStall = s.restStall := rfl
@[simp] theorem playNibble_ticks (n : Nibble) : (playNibble n s).ticks = s.ticks := rfl
@[simp] theorem loadB_cfg : (loadB s).cfg = s.cfg := rfl
@[simp] theorem loadB_strip : (loadB s).strip = s.strip := rfl
@[simp] theorem loadB_fba : (loadB s).fba = s.fba := rfl
@[simp] theorem loadB_fbb : (loadB s).fbb = s.fbb := rfl
@[simp] theorem loadB_busy : (loadB s).busy = s.busy := rfl
@[simp] theorem loadB_buildCnt : (loadB s).buildCnt = s.buildCnt := rfl
@[simp] theorem loadB_showN : (loadB s).showN = s.showN := rfl
@[simp] theorem loadB_a : (loadB s).a = s.a := rfl
@[simp] theorem loadB_b : (loadB s).b = s.b.load := rfl
@[simp] theorem loadB_rsp : (loadB s).rsp = s.rsp := rfl
@[simp] theorem loadB_dout : (loadB s).dout = s.dout := rfl
@[simp] theorem loadB_inputs : (loadB s).inputs = s.inputs := rfl
@[simp] theorem loadB_restStall : (loadB s).restStall = s.restStall := rfl
@[simp] theorem loadB_ticks : (loadB s).ticks = s.ticks := rfl
@[simp] theorem quiesce_cfg : (quiesce s).cfg = s.cfg := rfl
@[simp] theorem quiesce_strip : (quiesce s).strip = s.strip := rfl
@[simp] theorem quiesce_fba : (quiesce s).fba = s.fba := rfl
@[simp] theorem quiesce_fbb : (quiesce s).fbb = s.fbb := rfl
@[simp] theorem quiesce_busy : (quiesce s).busy = false := rfl
@[simp] theorem quiesce_buildCnt : (quiesce s).buildCnt = 0 := rfl
@[simp] theorem quiesce_showN : (quiesce s).showN = s.showN := rfl
@[simp] theorem quiesce_b : (quiesce s).b = s.b := rfl
@[simp] theorem quiesce_rsp : (quiesce s).rsp = s.rsp := rfl
@[simp] theorem quiesce_dout : (quiesce s).dout = s.dout := rfl
@[simp] theorem quiesce_inputs : (quiesce s).inputs = s.inputs := rfl
@[simp] theorem quiesce_restStall : (quiesce s).restStall = s.restStall := rfl
@[simp] theorem quiesce_ticks : (quiesce s).ticks = s.ticks := rfl
@[simp] theorem present_cfg (w : Option CmdWord) : (present w s).cfg = s.cfg := rfl
@[simp] theorem present_strip (w : Option CmdWord) : (present w s).strip = s.strip := rfl
@[simp] theorem present_fba (w : Option CmdWord) : (present w s).fba = s.fba := rfl
@[simp] theorem present_fbb (w : Option CmdWord) : (present w s).fbb = s.fbb := rfl
@[simp] theorem present_busy (w : Option CmdWord) : (present w s).busy = s.busy := rfl
@[simp] theorem present_buildCnt (w : Option CmdWord) : (present w s).buildCnt = s.buildCnt := rfl
@[simp] theorem present_showN (w : Option CmdWord) : (present w s).showN = s.showN := rfl
@[simp] theorem present_a (w : Option CmdWord) : (present w s).a = s.a := rfl
@[simp] theorem present_b (w : Option CmdWord) : (present w s).b = s.b := rfl
@[simp] theorem present_rsp (w : Option CmdWord) : (present w s).rsp = s.rsp := rfl
@[simp] theorem present_dout (w : Option CmdWord) : (present w s).dout = s.dout := rfl
@[simp] theorem present_restStall (w : Option CmdWord) : (present w s).restStall = s.restStall := rfl
@[simp] theorem present_ticks (w : Option CmdWord) : (present w s).ticks = s.ticks := rfl
@[simp] theorem build_cfg : (build s).cfg = s.cfg := by unfold build; (repeat' split) <;> rfl
@[simp] theorem build_strip : (build s).strip = s.strip := by unfold build; (repeat' split) <;> rfl
@[simp] theorem build_busy : (build s).busy = s.busy := by unfold build; (repeat' split) <;> rfl
@[simp] theorem build_buildCnt : (build s).buildCnt = s.buildCnt := by unfold build; (repeat' split) <;> rfl
@[simp] theorem build_showN : (build s).showN = s.showN := by unfold build; (repeat' split) <;> rfl
@[simp] theorem build_a : (build s).a = s.a := by unfold build; (repeat' split) <;> rfl
@[simp] theorem build_b : (build s).b = s.b := by unfold build; (repeat' split) <;> rfl
@[simp] theorem build_rsp : (build s).rsp = s.rsp := by unfold build; (repeat' split) <;> rfl
@[simp] theorem build_dout : (build s).dout = s.dout := by unfold build; (repeat' split) <;> rfl
@[simp] theorem build_inputs : (build s).inputs = s.inputs := by unfold build; (repeat' split) <;> rfl
@[simp] theorem build_restStall : (build s).restStall = s.restStall := by unfold build; (repeat' split) <;> rfl
@[simp] theorem build_ticks : (build s).ticks = s.ticks := by unfold build; (repeat' split) <;> rfl
@[simp] theorem startTransport_cfg : (startTransport s).cfg = s.cfg := by unfold startTransport; (repeat' split) <;> rfl
@[simp] theorem startTransport_strip : (startTransport s).strip = s.strip := by unfold startTransport; (repeat' split) <;> rfl
@[simp] theorem startTransport_fba : (startTransport s).fba = s.fba := by unfold startTransport; (repeat' split) <;> rfl
@[simp] theorem startTransport_fbb : (startTransport s).fbb = s.fbb := by unfold startTransport; (repeat' split) <;> rfl
@[simp] theorem startTransport_busy : (startTransport s).busy = s.busy := by unfold startTransport; (repeat' split) <;> rfl
@[simp] theorem startTransport_buildCnt : (startTransport s).buildCnt = s.buildCnt := by unfold startTransport; (repeat' split) <;> rfl
@[simp] theorem startTransport_showN : (startTransport s).showN = s.showN := by unfold startTransport; (repeat' split) <;> rfl
@[simp] theorem startTransport_rsp : (startTransport s).rsp = s.rsp := by unfold startTransport; (repeat' split) <;> rfl
@[simp] theorem startTransport_dout : (startTransport s).dout = s.dout := by unfold startTransport; (repeat' split) <;> rfl
@[simp] theorem startTransport_inputs : (startTransport s).inputs = s.inputs := by unfold startTransport; (repeat' split) <;> rfl
@[simp] theorem startTransport_restStall : (startTransport s).restStall = s.restStall := by unfold startTransport; (repeat' split) <;> rfl
@[simp] theorem startTransport_ticks : (startTransport s).ticks = s.ticks := by unfold startTransport; (repeat' split) <;> rfl
@[simp] theorem beginReset_cfg : (beginReset s).cfg = s.cfg := by unfold beginReset; (repeat' split) <;> rfl
@[simp] theorem beginReset_strip : (beginReset s).strip = s.strip := by unfold beginReset; (repeat' split) <;> rfl
@[simp] theorem beginReset_fba : (beginReset s).fba = s.fba := by unfold beginReset; (repeat' split) <;> rfl
@[simp] theorem beginReset_fbb : (beginReset s).fbb = s.fbb := by unfold beginReset; (repeat' split) <;> rfl
@[simp] theorem beginReset_busy : (beginReset s).busy = true := by unfold beginReset; (repeat' split) <;> rfl
@[simp] theorem beginReset_buildCnt : (beginReset s).buildCnt = s.buildCnt := by unfold beginReset; (repeat' split) <;> rfl
@[simp] theorem beginReset_showN : (beginReset s).showN = s.showN := by unfold beginReset; (repeat' split) <;> rfl
@[simp] theorem beginReset_rsp : (beginReset s).rsp = s.rsp := by unfold beginReset; (repeat' split) <;> rfl
@[simp] theorem beginReset_dout : (beginReset s).dout = s.dout := by unfold beginReset; (repeat' split) <;> rfl
@[simp] theorem beginReset_inputs : (beginReset s).inputs = s.inputs := by unfold beginReset; (repeat' split) <;> rfl
@[simp] theorem beginReset_restStall : (beginReset s).restStall = s.restStall := by unfold beginReset; (repeat' split) <;> rfl
@[simp] theorem beginReset_ticks : (beginReset s).ticks = s.ticks := by unfold beginReset; (repeat' split) <;> rfl
@[simp] theorem transportSetup_cfg : (transportSetup s).cfg = s.cfg := by unfold transportSetup; (repeat' split) <;> rfl
@[simp] theorem transportSetup_strip : (transportSetup s).strip = s.strip := by unfold transportSetup; (repeat' split) <;> rfl
@[simp] theorem transportSetup_fba : (transportSetup s).fba = s.fba := by unfold transportSetup; (repeat' split) <;> rfl
@[simp] theorem transportSetup_fbb : (transportSetup s).fbb = s.fbb := by unfold transportSetup; (repeat' split) <;> rfl
@[simp] theorem transportSetup_busy : (transportSetup s).busy = s.busy := by unfold transportSetup; (repeat' split) <;> rfl
@[simp] theorem transportSetup_buildCnt : (transportSetup s).buildCnt = s.buildCnt := by unfold transportSetup; (repeat' split) <;> rfl
@[simp] theorem transportSetup_showN : (transportSetup s).showN = s.showN := by unfold transportSetup; (repeat' split) <;> rfl
@[simp] theorem transportSetup_rsp : (transportSetup s).rsp = s.rsp := by unfold transportSetup; (repeat' split) <;> rfl
@[simp] theorem transportSetup_dout : (transportSetup s).dout = s.dout := by unfold transportSetup; (repeat' split) <;> rfl
@[simp] theorem transportSetup_inputs : (transportSetup s).inputs = s.inputs := by unfold transportSetup; (repeat' split) <;> rfl
@[simp] theorem transportSetup_restStall : (transportSetup s).restStall = s.restStall := by unfold transportSetup; (repeat' split) <;> rfl
@[simp] theorem transportSetup_ticks : (transportSetup s).ticks = s.ticks := by unfold transportSetup; (repeat' split) <;> rfl
@[simp] theorem generator_cfg : (generator s).cfg = s.cfg := by unfold generator; (repeat' split) <;> rfl
@[simp] theorem generator_strip : (generator s).strip = s.strip := by unfold generator; (repeat' split) <;> rfl
@[simp] theorem generator_fba : (generator s).fba = s.fba := by unfold generator; (repeat' split) <;> rfl
@[simp] theorem generator_fbb : (generator s).fbb = s.fbb := by unfold generator; (repeat' split) <;> rfl
@[simp] theorem generator_busy : (generator s).busy = s.busy := by unfold generator; (repeat' split) <;> rfl
@[simp] theorem generator_buildCnt : (generator s).buildCnt = s.buildCnt := by unfold generator; (repeat' split) <;> rfl
@[simp] theorem generator_showN : (generator s).showN = s.showN := by unfold generator; (repeat' split) <;> rfl
@[simp] theorem generator_b : (generator s).b = s.b := by unfold generator; (repeat' split) <;> rfl
@[simp] theorem generator_rsp : (generator s).rsp = s.rsp := by unfold generator; (repeat' split) <;> rfl
@[simp] theorem generator_dout : (generator s).dout = s.dout := by unfold generator; (repeat' split) <;> rfl
@[simp] theorem generator_inputs : (generator s).inputs = s.inputs := by unfold generator; (repeat' split) <;> rfl
@[simp] theorem generator_restStall : (generator s).restStall = s.restStall := by unfold generator; (repeat' split) <;> rfl
@[simp] theorem generator_ticks : (generator s).ticks = s.ticks := by unfold generator; (repeat' split) <;> rfl
@[simp] theorem sequencerA_cfg : (sequencerA s).cfg = s.cfg := by unfold sequencerA; (repeat' split) <;> rfl
@[simp] theorem sequencerA_strip : (sequencerA s).strip = s.strip := by unfold sequencerA; (repeat' split) <;> rfl
@[simp] theorem sequencerA_fba : (sequencerA s).fba = s.fba := by unfold sequencerA; (repeat' split) <;> rfl
@[simp] theorem sequencerA_fbb : (sequencerA s).fbb = s.fbb := by unfold sequencerA; (repeat' split) <;> rfl
@[simp] theorem sequencerA_buildCnt : (sequencerA s).buildCnt = s.buildCnt := by unfold sequencerA; (repeat' split) <;> rfl
@[simp] theorem sequencerA_showN : (sequencerA s).showN = s.showN := by unfold sequencerA; (repeat' split) <;> rfl
@[simp] theorem sequencerA_b : (sequencerA s).b = s.b := by unfold sequencerA; (repeat' split) <;> rfl
@[simp] theorem sequencerA_rsp : (sequencerA s).rsp = s.rsp := by unfold sequencerA; (repeat' split) <;> rfl
@[simp] theorem sequencerA_dout : (sequencerA s).dout = s.dout := by unfold sequencerA; (repeat' split) <;> rfl
@[simp] theorem sequencerA_inputs : (sequencerA s).inputs = s.inputs := by unfold sequencerA; (repeat' split) <;> rfl
@[simp] theorem sequencerA_restStall : (sequencerA s).restStall = s.restStall := by unfold sequencerA; (repeat' split) <;> rfl
@[simp] theorem sequencerA_ticks : (sequencerA s).ticks = s.ticks := by unfold sequencerA; (repeat' split) <;> rfl
@[simp] theorem sequencerB_cfg : (sequencerB s).cfg = s.cfg := by unfold sequencerB; (repeat' split) <;> rfl
@[simp] theorem sequencerB_strip : (sequencerB s).strip = s.strip := by unfold sequencerB; (repeat' split) <;> rfl
@[simp] theorem sequencerB_fba : (sequencerB s).fba = s.fba := by unfold sequencerB; (repeat' split) <;> rfl
@[simp] theorem sequencerB_fbb : (sequencerB s).fbb = s.fbb := by unfold sequencerB; (repeat' split) <;> rfl
@[simp] theorem sequencerB_buildCnt : (sequencerB s).buildCnt = s.buildCnt := by unfold sequencerB; (repeat' split) <;> rfl
@[simp] theorem sequencerB_showN : (sequencerB s).showN = s.showN := by unfold sequencerB; (repeat' split) <;> rfl
@[simp] theorem sequencerB_a : (sequencerB s).a = s.a := by unfold sequencerB; (repeat' split) <;> rfl
@[simp] theorem sequencerB_b : (sequencerB s).b = s.b := by unfold sequencerB; (repeat' split) <;> rfl
@[simp] theorem sequencerB_rsp : (sequencerB s).rsp = s.rsp := by unfold sequencerB; (repeat' split) <;> rfl
@[simp] theorem sequencerB_dout : (sequencerB s).dout = s.dout := by unfold sequencerB; (repeat' split) <;> rfl
@[simp] theorem sequencerB_inputs : (sequencerB s).inputs = s.inputs := by unfold sequencerB; (repeat' split) <;> rfl
@[simp] theorem sequencerB_restStall : (sequencerB s).restStall = s.restStall := by unfold sequencerB; (repeat' split) <;> rfl
@[simp] theorem sequencerB_ticks : (sequencerB s).ticks = s.ticks := by unfold sequencerB; (repeat' split) <;> rfl
@[simp] theorem awaitBuild_cfg : (awaitBuild s).cfg = s.cfg := by unfold awaitBuild; split <;> simp
@[simp] theorem awaitBuild_strip : (awaitBuild s).strip = s.strip := by unfold awaitBuild; split <;> simp
@[simp] theorem awaitBuild_fba : (awaitBuild s).fba = s.fba := by unfold awaitBuild; split <;> simp
@[simp] theorem awaitBuild_fbb : (awaitBuild s).fbb = s.fbb := by unfold awaitBuild; split <;> simp
@[simp] theorem awaitBuild_busy : (awaitBuild s).busy = s.busy := by unfold awaitBuild; split <;> simp
@[simp] theorem awaitBuild_showN : (awaitBuild s).showN = s.showN := by unfold awaitBuild; split <;> simp
@[simp] theorem awaitBuild_rsp : (awaitBuild s).rsp = s.rsp := by unfold awaitBuild; split <;> simp
@[simp] theorem awaitBuild_dout : (awaitBuild s).dout = s.dout := by unfold awaitBuild; split <;> simp
@[simp] theorem awaitBuild_inputs : (awaitBuild s).inputs = s.inputs := by unfold awaitBuild; split <;> simp
@[simp] theorem awaitBuild_restStall : (awaitBuild s).restStall = s.restStall := by unfold awaitBuild; split <;> simp
@[simp] theorem awaitBuild_ticks : (awaitBuild s).ticks = s.ticks := by unfold awaitBuild; split <;> simp
@[simp] theorem beginShow_cfg : (beginShow s).cfg = s.cfg := by unfold beginShow; dsimp only; split <;> simp
@[simp] theorem beginShow_strip : (beginShow s).strip = s.strip := by unfold beginShow; dsimp only; split <;> simp
@[simp] theorem beginShow_busy : (beginShow s).busy = true := by unfold beginShow; dsimp only; split <;> simp
@[simp] theorem beginShow_showN : (beginShow s).showN = s.strip.count := by unfold beginShow; dsimp only; split <;> simp
@[simp] theorem beginShow_rsp : (beginShow s).rsp = s.rsp := by unfold beginShow; dsimp only; split <;> simp
@[simp] theorem beginShow_dout : (beginShow s).dout = s.dout := by unfold beginShow; dsimp only; split <;> simp
@[simp] theorem beginShow_inputs : (beginShow s).inputs = s.inputs := by unfold beginShow; dsimp only; split <;> simp
@[simp] theorem beginShow_restStall : (beginShow s).restStall = s.restStall := by unfold beginShow; dsimp only; split <;> simp
@[simp] theorem beginShow_ticks : (beginShow s).ticks = s.ticks := by unfold beginShow; dsimp only; split <;> simp
@[simp] theorem bindStrip_cfg (n : Half) : (bindStrip n s).cfg = s.cfg := by simp [bindStrip]
@[simp] theorem bindStrip_fba (n : Half) : (bindStrip n s).fba = s.fba := by simp [bindStrip]
@[simp] theorem bindStrip_fbb (n : Half) : (bindStrip n s).fbb = s.fbb := by simp [bindStrip]
@[simp] theorem bindStrip_busy (n : Half) : (bindStrip n s).busy = s.busy := by simp [bindStrip]
@[simp] theorem bindStrip_buildCnt (n : Half) : (bindStrip n s).buildCnt = s.buildCnt := by simp [bindStrip]
@[simp] theorem bindStrip_showN (n : Half) : (bindStrip n s).showN = s.showN := by simp [bindStrip]
@[simp] theorem bindStrip_rsp (n : Half) : (bindStrip n s).rsp = s.rsp := by simp [bindStrip]
@[simp] theorem bindStrip_dout (n : Half) : (bindStrip n s).dout = s.dout := by simp [bindStrip]
@[simp] theorem bindStrip_inputs (n : Half) : (bindStrip n s).inputs = s.inputs := by simp [bindStrip]
@[simp] theorem bindStrip_restStall (n : Half) : (bindStrip n s).restStall = s.restStall := by simp [bindStrip]
@[simp] theorem bindStrip_ticks (n : Half) : (bindStrip n s).ticks = s.ticks := by simp [bindStrip]
@[simp] theorem sequencer_cfg : (sequencer s).cfg = s.cfg := by unfold sequencer; (repeat' split) <;> simp
@[simp] theorem sequencer_strip : (sequencer s).strip = s.strip := by unfold sequencer; (repeat' split) <;> simp
@[simp] theorem sequencer_fba : (sequencer s).fba = s.fba := by unfold sequencer; (repeat' split) <;> simp
@[simp] theorem sequencer_fbb : (sequencer s).fbb = s.fbb := by unfold sequencer; (repeat' split) <;> simp
@[simp] theorem sequencer_showN : (sequencer s).showN = s.showN := by unfold sequencer; (repeat' split) <;> simp
@[simp] theorem sequencer_rsp : (sequencer s).rsp = s.rsp := by unfold sequencer; (repeat' split) <;> simp
@[simp] theorem sequencer_dout : (sequencer s).dout = s.dout := by unfold sequencer; (repeat' split) <;> simp
@[simp] theorem sequencer_inputs : (sequencer s).inputs = s.inputs := by unfold sequencer; (repeat' split) <;> simp
@[simp] theorem sequencer_restStall : (sequencer s).restStall = s.restStall := by unfold sequencer; (repeat' split) <;> simp
@[simp] theorem sequencer_ticks : (sequencer s).ticks = s.ticks := by unfold sequencer; (repeat' split) <;> simp

end Sys2Proof.Machine
end

