-- ==== Sys2Proof/Laws/Encoding.lean ====
section
/-! SUPPORT. The small laws of the parameters, of the field slices and of the codes: what legality gives, that packing and slicing
agree, and that the codes of a legal block are distinct. -/

namespace Sys2Proof

/-- Legality, clause by clause (00_scope.md rules R7 to R9). -/
theorem Config.legal_iff (c : Config) : c.legal = true ↔
    (1 ≤ c.maxLeds ∧ c.capA < 2 ^ 16 ∧ c.defaultBrightness ≠ 255#8 ∧ 4 ≤ c.periodTicks ∧ c.periodTicks < 2 ^ 16 ∧
      0 < c.duty0Ticks ∧ c.duty0Ticks < c.duty1Ticks ∧ c.duty1Ticks < c.periodTicks ∧ 1 ≤ c.settleTicks ∧
      c.settleTicks < 2 ^ 16 ∧ 1 ≤ c.sbitTicks ∧ Config.codeShape c.code0Nib = true ∧
      Config.codeShape c.code1Nib = true ∧ c.code0Nib < c.code1Nib ∧ 1 ≤ c.resetBytes ∧
      (c.backend = .A ∨ c.showLen c.maxLeds < 2 ^ 16)) := by
  simp only [Config.legal, Bool.and_eq_true, Bool.or_eq_true, beq_iff_eq, decide_eq_true_eq, and_assoc]

theorem bitSet_bitOf (b : Bool) : bitSet (bitOf b) = b := by cases b <;> rfl

/-- The upper part of a concatenation. -/
theorem extract_upper {v w : Nat} (x : BitVec v) (y : BitVec w) : (x ++ y).extractLsb' w v = x := by
  rw [BitVec.extractLsb'_append_eq_of_le (Nat.le_refl w), Nat.sub_self, BitVec.extractLsb'_eq_self]

/-- A slice of the lower part of a concatenation. -/
theorem extract_lower {v w k n : Nat} (x : BitVec v) (y : BitVec w) (h : k + n ≤ w) :
    (x ++ y).extractLsb' k n = y.extractLsb' k n := BitVec.extractLsb'_append_eq_of_add_le h

/-- Slicing a packed word gives the fields back (30_encoding.md rule R90). -/
theorem cmdFields_packFields (f : CmdFields) : cmdFields (packFields f) = f := by
  obtain ⟨op, h, s, rsv, idx, r, g, b⟩ := f
  have eb := @BitVec.extractLsb'_eq_self 8 b
  have l7 {k n} (hk : k + n ≤ 44) := extract_lower (k := k) (n := n) op (h ++ (s ++ (rsv ++ (idx ++ (r ++ (g ++ b)))))) hk
  have l6 {k n} (hk : k + n ≤ 43) := extract_lower (k := k) (n := n) h (s ++ (rsv ++ (idx ++ (r ++ (g ++ b))))) hk
  have l5 {k n} (hk : k + n ≤ 42) := extract_lower (k := k) (n := n) s (rsv ++ (idx ++ (r ++ (g ++ b)))) hk
  have l4 {k n} (hk : k + n ≤ 40) := extract_lower (k := k) (n := n) rsv (idx ++ (r ++ (g ++ b))) hk
  have l3 {k n} (hk : k + n ≤ 24) := extract_lower (k := k) (n := n) idx (r ++ (g ++ b)) hk
  have l2 {k n} (hk : k + n ≤ 16) := extract_lower (k := k) (n := n) r (g ++ b) hk
  have l1 {k n} (hk : k + n ≤ 8) := extract_lower (k := k) (n := n) g b hk
  simp only [cmdFields, packFields, CmdFields.mk.injEq]
  refine ⟨extract_upper op _, ?_, ?_, ?_, ?_, ?_, ?_, ?_⟩
  · exact (l7 (by decide)).trans (extract_upper h _)
  · exact (l7 (by decide)).trans ((l6 (by decide)).trans (extract_upper s _))
  · exact (l7 (by decide)).trans ((l6 (by decide)).trans ((l5 (by decide)).trans (extract_upper rsv _)))
  · exact (l7 (by decide)).trans ((l6 (by decide)).trans ((l5 (by decide)).trans ((l4 (by decide)).trans
      (extract_upper idx _))))
  · exact (l7 (by decide)).trans ((l6 (by decide)).trans ((l5 (by decide)).trans ((l4 (by decide)).trans
      ((l3 (by decide)).trans (extract_upper r _)))))
  · exact (l7 (by decide)).trans ((l6 (by decide)).trans ((l5 (by decide)).trans ((l4 (by decide)).trans
      ((l3 (by decide)).trans ((l2 (by decide)).trans (extract_upper g _))))))
  · exact (l7 (by decide)).trans ((l6 (by decide)).trans ((l5 (by decide)).trans ((l4 (by decide)).trans
      ((l3 (by decide)).trans ((l2 (by decide)).trans ((l1 (by decide)).trans eb))))))

/-- The duty codes of a legal block as numbers. -/
theorem codeA_toNat {c : Config} (h : c.legal = true) (bit : Bool) :
    (c.codeA bit).toNat = if bit then c.duty1Ticks else c.duty0Ticks := by
  rw [Config.legal_iff] at h
  cases bit <;> simp only [Config.codeA, BitVec.toNat_ofNat] <;> apply Nat.mod_eq_of_lt <;> simp <;> omega

theorem codeA_ne_zero {c : Config} (h : c.legal = true) (bit : Bool) : c.codeA bit ≠ 0#16 := by
  intro e
  have := codeA_toNat h bit
  rw [Config.legal_iff] at h
  rw [e] at this
  cases bit <;> simp at this <;> omega

theorem codeA_inj {c : Config} (h : c.legal = true) : c.codeA true ≠ c.codeA false := by
  intro e
  have h0 := codeA_toNat h false
  have h1 := codeA_toNat h true
  rw [Config.legal_iff] at h
  rw [e, h0] at h1
  simp at h1
  omega

/-- The three codes a legal block may have for a bit (00_scope.md rule R9). -/
theorem codeB_shape {c : Config} (h : c.legal = true) (bit : Bool) :
    c.codeB bit = 0b1000#4 ∨ c.codeB bit = 0b1100#4 ∨ c.codeB bit = 0b1110#4 := by
  rw [Config.legal_iff] at h
  obtain ⟨-, -, -, -, -, -, -, -, -, -, -, h0, h1, -⟩ := h
  simp only [Config.codeShape, Bool.or_eq_true, beq_iff_eq, or_assoc] at h0 h1
  cases bit
  · exact h0
  · exact h1

theorem codeB_inj {c : Config} (h : c.legal = true) : c.codeB true ≠ c.codeB false := by
  rw [Config.legal_iff] at h
  obtain ⟨-, -, -, -, -, -, -, -, -, -, -, -, -, h01, -⟩ := h
  intro e
  simp only [Config.codeB, if_true, Bool.false_eq_true, if_false] at e
  rw [e] at h01
  exact absurd h01 (by simp)

theorem pairB_high (c : Config) (x y : Bool) : (c.pairB x y).extractLsb' 4 4 = c.codeB x :=
  extract_upper (c.codeB x) (c.codeB y)

theorem pairB_low (c : Config) (x y : Bool) : (c.pairB x y).extractLsb' 0 4 = c.codeB y :=
  (extract_lower (k := 0) (n := 4) (c.codeB x) (c.codeB y) (by decide)).trans BitVec.extractLsb'_eq_self

theorem pairB_ne_zero {c : Config} (h : c.legal = true) (x y : Bool) : c.pairB x y ≠ 0#8 := by
  intro e
  have := pairB_high c x y
  rw [e] at this
  rcases codeB_shape h x with hs | hs | hs <;> rw [hs] at this <;> exact absurd this (by decide)

theorem codeB_injective {c : Config} (h : c.legal = true) {x y : Bool} (e : c.codeB x = c.codeB y) : x = y := by
  cases x <;> cases y <;> first | rfl | exact absurd e (codeB_inj h) | exact absurd e.symm (codeB_inj h)

theorem pairB_inj {c : Config} (h : c.legal = true) {x y x' y' : Bool} (e : c.pairB x y = c.pairB x' y') :
    x = x' ∧ y = y' := by
  have e1 := pairB_high c x y
  have e2 := pairB_low c x y
  rw [e, pairB_high] at e1
  rw [e, pairB_low] at e2
  exact ⟨(codeB_injective h e1).symm, (codeB_injective h e2).symm⟩

end Sys2Proof
end

