-- ==== Sys2Proof/Laws/Memory.lean ====
section
/-! SUPPORT. The laws of the element memories: what a read gives after a write or a block write, and that every memory operation keeps
the canonical form and the capacity. -/

namespace Sys2Proof.Machine

variable {α : Type} [DecidableEq α] {d : α}

omit [DecidableEq α] in
@[simp] theorem Store.read_nil (k : Nat) : Store.read d [] k = d := rfl

theorem Store.wfFrom_mono {m : Store α} {k l : Nat} (h : Store.wfFrom d l m = true) (hk : k ≤ l) :
    Store.wfFrom d k m = true := by
  cases m with
  | nil => rfl
  | cons c m =>
    simp only [Store.wfFrom, Bool.and_eq_true, decide_eq_true_eq] at h ⊢
    exact ⟨⟨by omega, h.1.2⟩, h.2⟩

/-- Below the first listed index everything reads as unlisted. -/
theorem Store.read_below {m : Store α} {k j : Nat} (h : Store.wfFrom d k m = true) (hj : j < k) :
    Store.read d m j = d := by
  induction m generalizing k with
  | nil => rfl
  | cons c m ih =>
    simp only [Store.wfFrom, Bool.and_eq_true, decide_eq_true_eq] at h
    rw [Store.read, if_neg (by omega)]
    exact ih h.2 (by omega)

/-! ### Block contents -/

theorem Store.wfFrom_listed (xs : List α) (k : Nat) : Store.wfFrom d k (Store.listed d k xs) = true := by
  induction xs generalizing k with
  | nil => rfl
  | cons x xs ih =>
    unfold Store.listed
    split
    · exact Store.wfFrom_mono (ih (k + 1)) (by omega)
    · simp [Store.wfFrom, *]

theorem Store.within_listed (xs : List α) {k cap : Nat} (h : k + xs.length ≤ cap) :
    Store.within cap (Store.listed d k xs) = true := by
  induction xs generalizing k with
  | nil => rfl
  | cons x xs ih =>
    simp only [List.length_cons] at h
    unfold Store.listed
    split
    · exact ih (by omega)
    · simp only [Store.within, List.all_cons, Bool.and_eq_true, decide_eq_true_eq]
      exact ⟨by omega, ih (by omega)⟩

theorem Store.read_listed (xs : List α) {k j : Nat} (h : k ≤ j) :
    Store.read d (Store.listed d k xs) j = xs.getD (j - k) d := by
  induction xs generalizing k with
  | nil => simp [Store.listed]
  | cons x xs ih =>
    unfold Store.listed
    by_cases hj : j = k
    · subst hj
      split
      · next hx => rw [Store.read_below (Store.wfFrom_listed xs (j + 1)) (by omega)]; simp [hx]
      · simp [Store.read]
    · have hs : j - k = (j - (k + 1)) + 1 := by omega
      split
      · rw [ih (by omega), hs]; simp
      · rw [Store.read, if_neg (by omega), ih (by omega), hs]; simp

/-- Dropping the entries below `n` keeps the form, now from `n` up. -/
theorem Store.wfFrom_filter {m : Store α} {k : Nat} (n : Nat) (h : Store.wfFrom d k m = true) :
    Store.wfFrom d (max k n) (m.filter (fun c => decide (n ≤ c.1))) = true := by
  induction m generalizing k with
  | nil => rfl
  | cons c m ih =>
    simp only [Store.wfFrom, Bool.and_eq_true, decide_eq_true_eq] at h
    rw [List.filter_cons]
    split
    · next hn =>
      simp only [decide_eq_true_eq] at hn
      simp only [Store.wfFrom, Bool.and_eq_true, decide_eq_true_eq]
      exact ⟨⟨by omega, h.1.2⟩, Store.wfFrom_mono (ih h.2) (by omega)⟩
    · exact Store.wfFrom_mono (ih h.2) (by omega)

omit [DecidableEq α] in
theorem Store.read_filter (m : Store α) {n j : Nat} (h : n ≤ j) :
    Store.read d (m.filter (fun c => decide (n ≤ c.1))) j = Store.read d m j := by
  induction m with
  | nil => rfl
  | cons c m ih =>
    rw [List.filter_cons]
    split
    · simp only [Store.read, ih]
    · next hn =>
      simp only [decide_eq_true_eq] at hn
      rw [ih, Store.read, if_neg (by omega)]

/-- Listed contents in front of entries that all lie beyond them. -/
theorem Store.wfFrom_append {m : Store α} (xs : List α) {k : Nat} (h : Store.wfFrom d (k + xs.length) m = true) :
    Store.wfFrom d k (Store.listed d k xs ++ m) = true := by
  induction xs generalizing k with
  | nil => simpa [Store.listed] using h
  | cons x xs ih =>
    have h' : Store.wfFrom d (k + 1 + xs.length) m = true := by
      simpa [Nat.add_assoc, Nat.add_comm 1] using h
    unfold Store.listed
    split
    · exact Store.wfFrom_mono (ih h') (by omega)
    · simp [Store.wfFrom, *]

theorem Store.read_append {m : Store α} (xs : List α) {k j : Nat} (h : Store.wfFrom d (k + xs.length) m = true)
    (hj : k ≤ j) :
    Store.read d (Store.listed d k xs ++ m) j = if j - k < xs.length then xs.getD (j - k) d else Store.read d m j := by
  induction xs generalizing k with
  | nil => simp [Store.listed]
  | cons x xs ih =>
    have h' : Store.wfFrom d (k + 1 + xs.length) m = true := by
      simpa [Nat.add_assoc, Nat.add_comm 1] using h
    unfold Store.listed
    by_cases hk : j = k
    · subst hk
      split
      · next hx => rw [Store.read_below (Store.wfFrom_append xs h') (by omega)]; simp [hx]
      · simp [Store.read]
    · have hs : j - k = (j - (k + 1)) + 1 := by omega
      split
      · rw [ih h' (by omega), hs]; simp
      · rw [List.cons_append, Store.read, if_neg (by omega), ih h' (by omega), hs]; simp

/-- A read after a block write: the block's element inside it, the old element beyond it. -/
theorem Store.read_fill {m : Store α} (xs : List α) (j : Nat) (h : Store.wfFrom d 0 m = true) :
    Store.read d (Store.fill d xs m) j = if j < xs.length then xs.getD j d else Store.read d m j := by
  have hf := Store.wfFrom_filter xs.length h
  rw [Store.fill, Store.read_append xs (Store.wfFrom_mono hf (by omega)) (Nat.zero_le j)]
  split
  · next hj => simp only [Nat.sub_zero] at hj; simp [hj]
  · next hj => simp only [Nat.sub_zero] at hj; rw [if_neg hj, Store.read_filter m (by omega)]

theorem Store.wfFrom_fill {m : Store α} (xs : List α) (h : Store.wfFrom d 0 m = true) :
    Store.wfFrom d 0 (Store.fill d xs m) = true :=
  Store.wfFrom_append xs (Store.wfFrom_mono (Store.wfFrom_filter xs.length h) (by omega))

theorem Store.within_fill {m : Store α} (xs : List α) {cap : Nat} (h : Store.within cap m = true)
    (hx : xs.length ≤ cap) : Store.within cap (Store.fill d xs m) = true := by
  have h1 := Store.within_listed (d := d) xs (k := 0) (cap := cap) (by omega)
  simp only [Store.within, List.all_eq_true, decide_eq_true_eq] at h h1
  simp only [Store.within, Store.fill, List.all_append, Bool.and_eq_true, List.all_eq_true, decide_eq_true_eq]
  exact ⟨h1, fun c hc => h c (List.mem_of_mem_filter hc)⟩

/-! ### One element -/

theorem Store.wfFrom_write {m : Store α} {k i : Nat} (v : α) (h : Store.wfFrom d k m = true) (hi : k ≤ i) :
    Store.wfFrom d k (Store.write d m i v) = true := by
  induction m generalizing k with
  | nil => unfold Store.write; split <;> simp [Store.wfFrom, *]
  | cons c m ih =>
    obtain ⟨j, u⟩ := c
    simp only [Store.wfFrom, Bool.and_eq_true, decide_eq_true_eq] at h
    unfold Store.write
    split
    · split <;> simp [Store.wfFrom, *]
    · split
      · next hij =>
        subst hij
        split
        · exact Store.wfFrom_mono h.2 (by omega)
        · simp [Store.wfFrom, *]
      · simp only [Store.wfFrom, Bool.and_eq_true, decide_eq_true_eq]
        exact ⟨h.1, ih h.2 (by omega)⟩

/-- A read after a write: the written element at its index, the old element at any other. -/
theorem Store.read_write {m : Store α} {k i : Nat} (v : α) (j : Nat) (h : Store.wfFrom d k m = true) :
    Store.read d (Store.write d m i v) j = if j = i then v else Store.read d m j := by
  induction m generalizing k with
  | nil =>
    unfold Store.write
    split
    · next hv => simp [hv]
    · simp [Store.read, eq_comm]
  | cons c m ih =>
    obtain ⟨l, u⟩ := c
    simp only [Store.wfFrom, Bool.and_eq_true, decide_eq_true_eq] at h
    have hlow := fun hj => Store.read_below (j := j) h.2 hj
    unfold Store.write
    split
    · split
      · next hil hv =>
        subst hv
        simp only [Store.read]
        split
        · next hlj => rw [if_neg (by omega)]
        · split
          · exact hlow (by omega)
          · rfl
      · simp only [Store.read, eq_comm (a := i)]
    · split
      · next hil =>
        subst hil
        split
        · next hv =>
          subst hv
          simp only [Store.read, eq_comm (a := i)]
          split
          · exact hlow (by omega)
          · rfl
        · simp only [Store.read, eq_comm (a := i)]
          split <;> rfl
      · simp only [Store.read, ih h.2]
        split
        · rw [if_neg (by omega)]
        · rfl

theorem Store.within_write {m : Store α} {cap i : Nat} (v : α) (h : Store.within cap m = true) (hi : i < cap) :
    Store.within cap (Store.write d m i v) = true := by
  induction m with
  | nil => unfold Store.write; split <;> simp [Store.within, *]
  | cons c m ih =>
    obtain ⟨j, u⟩ := c
    have h2 := h
    simp only [Store.within, List.all_cons, Bool.and_eq_true, decide_eq_true_eq] at h2
    have ih' := ih h2.2
    have hm : (m.all fun c => decide (c.1 < cap)) = true := h2.2
    unfold Store.write
    split
    · split <;> simp [Store.within, hi, h2.1, hm]
    · split
      · split
        · exact h2.2
        · simp [Store.within, hi, hm]
      · simp only [Store.within, List.all_cons, Bool.and_eq_true, decide_eq_true_eq]
        exact ⟨h2.1, ih'⟩

end Sys2Proof.Machine
end

