-- ==== Sys2Proof/Laws/Tick.lean ====
section
/-! SUPPORT. What each shared operation of a tick can do, said once: sequencing of outcomes, what a transport's taking of a word
amounts to, the reader, the byte loop, the agents, the command port, the tick. -/

namespace Sys2Proof.Machine

/-! ### Sequencing -/

@[simp] theorem Result.andThen_next (s : State) (f : State → Result) : Result.andThen (.next s) f = f s := rfl

@[simp] theorem Result.andThen_fault (r : Fault) (f : State → Result) : Result.andThen (.fault r) f = .fault r := rfl

@[simp] theorem Result.andThen_refused (r : Refusal) (f : State → Result) :
    Result.andThen (.refused r) f = .refused r := rfl

/-- A sequence reaches a next state only through one. -/
theorem Result.andThen_eq_next {o : Result} {f : State → Result} {t : State} :
    o.andThen f = .next t ↔ ∃ s, o = .next s ∧ f s = .next t := by
  cases o <;> simp [Result.andThen]

/-! ### Taking a word -/

/-- On its own backend a duty, code or not, is moved (42_transport_a.md rule R198). -/
theorem takeDuty_eq {s : State} (h : s.cfg.backend = .A) (d : Duty) : takeDuty d s = .next (moveDuty d s) := by
  have ok : ∀ i, decodeDuty s.cfg d = .ok i → exec i s = .next (moveDuty d s) := by
    intro i e
    unfold decodeDuty at e
    (repeat' split at e) <;> cases e <;> simp_all [exec, execAGuard, execABit0, execABit1, onA]
  unfold takeDuty
  split
  · next e => exact ok _ e
  · rfl

/-- On its own backend a byte, code or not, is written (43_transport_b.md rule R233). -/
theorem takeByte_eq {s : State} (h : s.cfg.backend = .B) (y : Byte) : takeByte y s = .next (writeByte y s) := by
  have ok : ∀ i, decodeByte s.cfg y = .ok i → exec i s = .next (writeByte y s) := by
    intro i e
    unfold decodeByte at e
    (repeat' split at e) <;> cases e <;>
      simp_all [exec, execBGuard, execBPair00, execBPair01, execBPair10, execBPair11, onB]
  unfold takeByte
  split
  · next e => exact ok _ e
  · rfl

/-- Putting the code that stands at the head of the shift register there changes nothing. -/
theorem RegsB.head_self (r : RegsB) : r.head (r.sr.extractLsb' 4 4) = r := by
  have : r.sr.extractLsb' 4 4 ++ r.sr.extractLsb' 0 4 = r.sr := by
    ext i hi
    have e : (r.sr.extractLsb' 4 4 ++ r.sr.extractLsb' 0 4 : BitVec (4 + 4)).getLsbD i = r.sr.getLsbD i := by
      rw [BitVec.getLsbD_append]
      split
      · simp [*]
      · rw [BitVec.getLsbD_extractLsb', show 4 + (i - 4) = i by omega]
        simp
        omega
    rw [BitVec.getLsbD_eq_getElem (show i < 4 + 4 by omega), BitVec.getLsbD_eq_getElem hi] at e
    exact e
  cases r
  simp only [RegsB.head] at this ⊢
  rw [this]

/-- On its own backend the code at the head of the shift register, a bit's code or not, plays its first tick (R116, R232). -/
theorem takeNibble_eq {s : State} (h : s.cfg.backend = .B) :
    takeNibble (s.b.sr.extractLsb' 4 4) s = .next (endTickB s) := by
  have hp : playNibble (s.b.sr.extractLsb' 4 4) s = endTickB s := by simp [playNibble, RegsB.head_self]
  have ok : ∀ i, decodeNibble s.cfg (s.b.sr.extractLsb' 4 4) = .ok i → exec i s = .next (endTickB s) := by
    intro i e
    unfold decodeNibble at e
    (repeat' split at e) <;> cases e <;> simp_all [exec, execBBit0, execBBit1, onB]
  unfold takeNibble
  split
  · next e => exact ok _ e
  · rfl

/-- A window's first tick is a serializer tick like any other: the code taken is the one that stands there (R116, R232). -/
theorem serialize_eq {s : State} (h : s.cfg.backend = .B) : serialize s = .next (endTickB s) := by
  unfold serialize
  split
  · exact takeNibble_eq h
  · rfl

/-! ### The agents -/

/-- What the reader can do in a tick (R198). -/
theorem reader_eq {s : State} (h : s.cfg.backend = .A) (stall : Bool) :
    reader stall s =
      if s.a.dmaEn = true ∧ s.a.dmaReq = true then
        if s.a.dmaRem = 0#16 then .next { s with a := { s.a with dmaReq := false } }
        else if stall = true then .next s
        else if s.a.dmaPtr.toNat < s.cfg.capA then .next (moveDuty (readFba s s.a.dmaPtr.toNat) s)
        else .fault .frameBufferRange
      else .next s := by
  unfold reader
  simp only [Bool.and_eq_true, takeDuty_eq h]

/-- The byte the byte loop writes: a stored one in the data part of the stream, zero in a reset block (R231). -/
def streamByte (s : State) : Byte :=
  match streamIndex s with
  | none => 0#8
  | some k => readFbb s k

/-- What the byte loop can do in a tick (R235). -/
theorem byteLoop_eq {s : State} (h : s.cfg.backend = .B)
    (hr : ∀ k, streamIndex s = some k → k < s.cfg.capB) :
    byteLoop s = .next (if sending s then writeByte (streamByte s) s else s) := by
  unfold byteLoop streamByte
  split
  · split
    · next he => simp [takeByte_eq h, he]
    · next k he => simp [takeByte_eq h, he, hr k he]
  · rfl

/-- The agents of a Backend B block (R236). -/
theorem agents_eq_B {s : State} (h : s.cfg.backend = .B) (stall : Bool)
    (hr : ∀ k, streamIndex s = some k → k < s.cfg.capB) :
    agents stall s = .next (endTickB (loadB (if sending s then writeByte (streamByte s) s else s))) := by
  unfold agents agentsB
  rw [h]
  simp only [byteLoop_eq h hr, Result.andThen_next]
  apply serialize_eq
  split <;> simp [h]

/-- The agents of a Backend A block (R202). -/
theorem agents_eq_A {s : State} (h : s.cfg.backend = .A) (stall : Bool) :
    agents stall s = (reader stall (generator s)).andThen (fun t => .next (endTickA t)) := by
  unfold agents agentsA
  rw [h]

/-- The agents write the transport registers and the line, and nothing else. -/
theorem agents_next {s t : State} {stall : Bool} (e : agents stall s = .next t) :
    t = { s with dout := t.dout, a := t.a, b := t.b } := by
  cases h : s.cfg.backend with
  | A =>
    rw [agents_eq_A h, Result.andThen_eq_next] at e
    obtain ⟨u, e1, e2⟩ := e
    have hg : generator s = { s with a := (generator s).a } := by unfold generator; split <;> rfl
    have hgc : (generator s).cfg.backend = .A := by rw [hg]; exact h
    rw [reader_eq hgc] at e1
    cases e2
    (repeat' split at e1) <;> cases e1 <;> rw [hg] <;> rfl
  | B =>
    unfold agents agentsB at e
    rw [h, Result.andThen_eq_next] at e
    obtain ⟨u, e1, e2⟩ := e
    have hu : u = { s with b := u.b } := by
      unfold byteLoop at e1
      split at e1
      · split at e1
        · rw [takeByte_eq h] at e1; cases e1; rfl
        · split at e1
          · rw [takeByte_eq h] at e1; cases e1; rfl
          · cases e1
      · cases e1; rfl
    have hB : (loadB u).cfg.backend = .B := by rw [hu]; exact h
    rw [serialize_eq hB] at e2
    cases e2
    rw [hu]
    rfl

/-! ### The command port -/

/-- Everything a command or reserved word can do where it answers a next state. -/
inductive CommandEffect (s : State) : State → Prop where
  | same : CommandEffect s s
  | response (v : Word24) : CommandEffect s { s with rsp := some v }
  | bind (n : Half) (pos : n ≠ 0#16) (bound : n.toNat ≤ s.cfg.maxLeds) (idle : s.busy = false) :
      CommandEffect s (bindStrip n s)
  | clear : CommandEffect s (clearPix (liveCount s) s)
  | pixel (i : Half) (p : Pixel) (live : indexLive i s = true) : CommandEffect s (writePix i.toNat p s)
  | brightness (v : Byte) : CommandEffect s { s with strip := { s.strip with brightness := v } }
  | showing (live : 0 < liveCount s) (idle : s.busy = false) : CommandEffect s (beginShow s)
  | latching (inited : s.strip.inited = true) (idle : s.busy = false) : CommandEffect s (beginReset s)

theorem execInit_effect {h st : Bool} {n : Half} {s t : State} (e : execInit h st n s = .next t) :
    CommandEffect s t := by
  unfold execInit secondInit noop at e
  split at e
  · next hv =>
    simp only [initValid, Bool.and_eq_true, bne_iff_ne, ne_eq, decide_eq_true_eq] at hv
    (repeat' split at e) <;> cases e <;>
      first | exact .same | exact .bind n hv.1.2 hv.2 (by simpa using ‹¬s.busy = true›)
  · cases e; exact .same

theorem execShow_effect {h : Bool} {s t : State} (e : execShow h s = .next t) : CommandEffect s t := by
  unfold execShow noop at e
  split at e
  · next hv =>
    simp only [showValid, Bool.and_eq_true, decide_eq_true_eq] at hv
    split at e <;> cases e
    exact .showing hv.2 (by simpa using ‹¬s.busy = true›)
  · cases e; exact .same

theorem execReset_effect {h : Bool} {s t : State} (e : execReset h s = .next t) : CommandEffect s t := by
  unfold execReset noop at e
  split at e
  · next hv =>
    simp only [Bool.and_eq_true] at hv
    split at e <;> cases e
    exact .latching hv.2 (by simpa using ‹¬s.busy = true›)
  · cases e; exact .same

/-- Say once what a command can do. -/
theorem exec_effect {i : Instr} (hi : i.isCommand = true) {s t : State} (e : exec i s = .next t) :
    CommandEffect s t := by
  cases i with
  | init h st n => exact execInit_effect e
  | clear h =>
    simp only [exec, execClear, noop] at e
    split at e <;> cases e
    · exact .clear
    · exact .same
  | setPixel h i r g b =>
    simp only [exec, execSetPixel, noop] at e
    split at e <;> cases e
    · next hv => exact .pixel i _ (by simp only [Bool.and_eq_true] at hv; exact hv.2)
    · exact .same
  | getPixel h i =>
    simp only [exec, execGetPixel, respond] at e
    split at e <;> cases e <;> exact .response _
  | setBrightness h v =>
    simp only [exec, execSetBrightness, noop] at e
    split at e <;> cases e
    · exact .brightness v
    · exact .same
  | getBrightness h =>
    simp only [exec, execGetBrightness, respond] at e
    split at e <;> cases e <;> exact .response _
  | showFrame h => exact execShow_effect e
  | resetLine h => exact execReset_effect e
  | reserved0 | reserved9 | reservedA | reservedB | reservedC | reservedD | reservedE | reservedF =>
    cases e; exact .same
  | aGuard | aBit0 | aBit1 | bBit0 | bBit1 | bPair00 | bPair01 | bPair10 | bPair11 | bGuard => cases hi

/-- A command never faults. -/
theorem exec_no_fault {i : Instr} (hi : i.isCommand = true) (s : State) (f : Fault) : exec i s ≠ .fault f := by
  cases i <;> first
    | (cases hi; done)
    | (simp only [exec, execInit, secondInit, execClear, execSetPixel, execGetPixel, execSetBrightness, execGetBrightness,
        execShow, execReset, execReserved0, execReserved9, execReservedA, execReservedB, execReservedC, execReservedD,
        execReservedE, execReservedF, noop, respond]; (repeat' split) <;> exact fun h => nomatch h)

/-- Not busy, a command is refused only for a second `init` under `REINIT = refuse` (40_strip_commands.md rule R138). -/
theorem exec_refused {i : Instr} (hi : i.isCommand = true) {s : State} (hb : s.busy = false) {r : Refusal}
    (e : exec i s = .refused r) : r = .secondInit := by
  cases i <;> first
    | (cases hi; done)
    | (simp only [exec, execInit, secondInit, execClear, execSetPixel, execGetPixel, execSetBrightness, execGetBrightness,
        execShow, execReset, execReserved0, execReserved9, execReservedA, execReservedB, execReservedC, execReservedD,
        execReservedE, execReservedF, noop, respond, hb] at e
       ((repeat' split at e) <;> first | (cases e; done) | (cases e; rfl) | (cases e; simp_all)))

/-- Every word of the command port is a command. -/
theorem decodeCmd_isCommand (w : CmdWord) : (decodeCmd w).isCommand = true := by
  unfold decodeCmd decodeFields
  simp only [apply_ite Instr.isCommand]
  simp [Instr.isCommand, Instr.backend?]

/-! ### The tick -/

theorem tick_rst {s : State} (h : (nextInput s).rst = true) : tick s = .next (hardwareReset (beginTick s)) := by
  simp [tick, h]

/-- A tick in which the block is busy takes no command (10_state.md rule R28). -/
theorem tick_busy {s : State} (hr : (nextInput s).rst = false) (hb : (sequencer (beginTick s)).busy = true) :
    tick s = agents (nextInput s).stall (sequencer (beginTick s)) := by
  unfold tick acceptCommand
  rw [hr]
  cases (nextInput s).cmd <;> simp [cmdReady, hb]

/-- A tick in which no command is presented. -/
theorem tick_no_cmd {s : State} (hr : (nextInput s).rst = false) (hc : (nextInput s).cmd = none) :
    tick s = agents (nextInput s).stall (sequencer (beginTick s)) := by
  simp [tick, acceptCommand, hr, hc]

/-- A tick that accepts a command (00_scope.md rule R15). -/
theorem tick_cmd {s : State} {w : CmdWord} (hr : (nextInput s).rst = false) (hc : (nextInput s).cmd = some w)
    (hb : (sequencer (beginTick s)).busy = false) :
    tick s = Result.andThen (exec (decodeCmd w) (sequencer (beginTick s))) (agents (nextInput s).stall) := by
  simp [tick, acceptCommand, hr, hc, cmdReady, hb]

/-- The next input is the first of the inputs to come. -/
theorem nextInput_eq (s : State) : nextInput s = inputAt s 0 := by
  unfold nextInput inputAt
  cases s.inputs <;> rfl

/-- After a tick the inputs to come are one tick nearer. -/
theorem inputAt_tail {s t : State} (hi : t.inputs = s.inputs.tail) (hs : t.restStall = s.restStall) (j : Nat) :
    inputAt t j = inputAt s (j + 1) := by
  unfold inputAt
  rw [hi, hs]
  cases s.inputs <;> simp

/-- Say once what a tick can do: reset the block; or run the sequencer, then an accepted command if there is one, then the agents. -/
theorem step_cases {s t : State} (e : step s = .next t) :
    ((nextInput s).rst = true ∧ t = hardwareReset (beginTick s)) ∨
    ((nextInput s).rst = false ∧ acceptedNow s = none ∧ agents (nextInput s).stall (sequencer (beginTick s)) = .next t) ∨
    ((nextInput s).rst = false ∧ (sequencer (beginTick s)).busy = false ∧ ∃ i u, acceptedNow s = some i ∧ i.isCommand = true ∧
      exec i (sequencer (beginTick s)) = .next u ∧ CommandEffect (sequencer (beginTick s)) u ∧
      agents (nextInput s).stall u = .next t) := by
  unfold step tick at e
  split at e
  · next h => cases e; exact .inl ⟨h, rfl⟩
  · next h =>
    have h : (nextInput s).rst = false := by simpa using h
    rw [Result.andThen_eq_next] at e
    obtain ⟨u, e1, e2⟩ := e
    unfold acceptCommand at e1
    split at e1
    · next hc => cases e1; exact .inr (.inl ⟨h, by simp [acceptedNow, h, hc], e2⟩)
    · next w hc =>
      split at e1
      · next hr =>
        exact .inr (.inr ⟨h, by simpa [cmdReady] using hr, decodeCmd w, u, by simp [acceptedNow, h, readyNow, hr, hc],
          decodeCmd_isCommand w, e1, exec_effect (decodeCmd_isCommand w) e1, e2⟩)
      · next hr => cases e1; exact .inr (.inl ⟨h, by simp [acceptedNow, h, readyNow, hr], e2⟩)

end Sys2Proof.Machine
end

