-- ==== Sys2Proof/Laws/Frames.lean ====
section
/-! SUPPORT. The laws of the frame encoder and of both builds: lengths, elements, and what a build leaves in the frame buffers. -/

namespace Sys2Proof.Machine

/-- The canonical form of the three memories, clause by clause. -/
theorem Memory.wf_iff (s : State) : Memory.wf s = true ↔
    (Store.wfFrom Pixel.zero 0 s.strip.pix = true ∧ Store.within s.cfg.maxLeds s.strip.pix = true ∧
      Store.wfFrom 0#16 0 s.fba = true ∧ Store.within s.cfg.capA s.fba = true ∧
      Store.wfFrom 0#8 0 s.fbb = true ∧ Store.within s.cfg.capB s.fbb = true) := by
  simp only [Memory.wf, Bool.and_eq_true, and_assoc]

@[simp] theorem pixelBits_length (b : Byte) (p : Pixel) : (pixelBits b p).length = 24 := by simp [pixelBits]

@[simp] theorem pixelDuties_length (c : Config) (b : Byte) (p : Pixel) : (pixelDuties c b p).length = 24 := by
  simp [pixelDuties]

@[simp] theorem pixelBytes_length (c : Config) (b : Byte) (p : Pixel) : (pixelBytes c b p).length = 12 := by
  simp [pixelBytes]

/-- Blocks of one length laid end to end: how many elements. -/
theorem length_flatMap_const {β : Type} (n k : Nat) (f : Nat → List β) (h : ∀ i, (f i).length = k) :
    ((List.range n).flatMap f).length = k * n := by
  induction n with
  | zero => simp
  | succ n ih => simp [List.range_succ, ih, h, Nat.mul_succ]

/-- Blocks of one length laid end to end: element `j` of block `i`. -/
theorem getD_flatMap_const {β : Type} (d : β) (n k : Nat) (f : Nat → List β) (h : ∀ i, (f i).length = k) {i j : Nat}
    (hi : i < n) (hj : j < k) : ((List.range n).flatMap f).getD (k * i + j) d = (f i).getD j d := by
  induction n with
  | zero => omega
  | succ n ih =>
    have hl := length_flatMap_const n k f h
    rw [List.range_succ, List.flatMap_append]
    by_cases hin : i = n
    · subst hin
      rw [List.getD_append_right _ _ _ _ (by omega), hl, Nat.add_sub_cancel_left]
      simp
    · have hlt : k * i + j < k * n := by
        calc k * i + j < k * i + k := by omega
          _ = k * (i + 1) := by rw [Nat.mul_succ]
          _ ≤ k * n := Nat.mul_le_mul_left k (by omega)
      rw [List.getD_append _ _ _ _ (by omega)]
      exact ih (by omega)

@[simp] theorem frameBits_length (n : Nat) (b : Byte) (p : Store Pixel) : (frameBits n b p).length = 24 * n :=
  length_flatMap_const n 24 _ (fun _ => pixelBits_length _ _)

@[simp] theorem frameA_length (c : Config) (n : Nat) (b : Byte) (p : Store Pixel) :
    (frameA c n b p).length = Config.lenA n := by
  simp [frameA, Config.lenA, length_flatMap_const n 24 _ (fun _ => pixelDuties_length c b _)]

@[simp] theorem frameB_length (c : Config) (n : Nat) (b : Byte) (p : Store Pixel) :
    (frameB c n b p).length = Config.lenB n := by
  simp [frameB, Config.lenB, length_flatMap_const n 12 _ (fun _ => pixelBytes_length c b _)]

theorem getD_range_map {β : Type} (d : β) (n : Nat) (f : Nat → β) {j : Nat} (hj : j < n) :
    ((List.range n).map f).getD j d = f j := by
  simp [List.getD_eq_getElem?_getD, hj]

/-- Protocol bit `j` of LED `i` in the frame (30_encoding.md rule R103). -/
theorem frameBits_getD (n : Nat) (b : Byte) (p : Store Pixel) {i j : Nat} (hi : i < n) (hj : j < 24) :
    (frameBits n b p).getD (24 * i + j) false =
      protocolBit (wireWord (scaled b (Store.read Pixel.zero p i))) j := by
  rw [frameBits, getD_flatMap_const false n 24 _ (fun _ => pixelBits_length _ _) hi hj, pixelBits,
    getD_range_map false 24 _ hj]

/-- The slots of a Backend A frame (R108). -/
theorem frameA_getD_data (c : Config) (n : Nat) (b : Byte) (p : Store Pixel) {i j : Nat} (hi : i < n) (hj : j < 24) :
    (frameA c n b p).getD (1 + (24 * i + j)) 0#16 =
      c.codeA (protocolBit (wireWord (scaled b (Store.read Pixel.zero p i))) j) := by
  have hl := length_flatMap_const n 24 (fun i => pixelDuties c b (Store.read Pixel.zero p i))
    (fun _ => pixelDuties_length c b _)
  have hlt : 24 * i + j < 24 * n := by omega
  rw [frameA, Nat.add_comm 1, List.getD_cons_succ, List.getD_append _ _ _ _ (by omega),
    getD_flatMap_const 0#16 n 24 _ (fun _ => pixelDuties_length c b _) hi hj]
  simp [pixelDuties, pixelBits, List.getD_eq_getElem?_getD, hj]

theorem frameA_getD_first (c : Config) (n : Nat) (b : Byte) (p : Store Pixel) : (frameA c n b p).getD 0 0#16 = 0#16 := rfl

theorem frameA_getD_last (c : Config) (n : Nat) (b : Byte) (p : Store Pixel) :
    (frameA c n b p).getD (24 * n + 1) 0#16 = 0#16 := by
  have hl := length_flatMap_const n 24 (fun i => pixelDuties c b (Store.read Pixel.zero p i))
    (fun _ => pixelDuties_length c b _)
  rw [frameA, List.getD_cons_succ, List.getD_append_right _ _ _ _ (by omega), hl, Nat.sub_self]
  rfl

/-- The bytes of a Backend B frame (R112). -/
theorem frameB_getD_data (c : Config) (n : Nat) (b : Byte) (p : Store Pixel) {i q : Nat} (hi : i < n) (hq : q < 12) :
    (frameB c n b p).getD (1 + (12 * i + q)) 0#8 =
      c.pairB (protocolBit (wireWord (scaled b (Store.read Pixel.zero p i))) (2 * q))
        (protocolBit (wireWord (scaled b (Store.read Pixel.zero p i))) (2 * q + 1)) := by
  have hl := length_flatMap_const n 12 (fun i => pixelBytes c b (Store.read Pixel.zero p i))
    (fun _ => pixelBytes_length c b _)
  have hlt : 12 * i + q < 12 * n := by omega
  rw [frameB, Nat.add_comm 1, List.getD_cons_succ, List.getD_append _ _ _ _ (by omega),
    getD_flatMap_const 0#8 n 12 _ (fun _ => pixelBytes_length c b _) hi hq, pixelBytes, getD_range_map 0#8 12 _ hq]

theorem frameB_getD_last (c : Config) (n : Nat) (b : Byte) (p : Store Pixel) :
    (frameB c n b p).getD (12 * n + 1) 0#8 = 0#8 := by
  have hl := length_flatMap_const n 12 (fun i => pixelBytes c b (Store.read Pixel.zero p i))
    (fun _ => pixelBytes_length c b _)
  rw [frameB, List.getD_cons_succ, List.getD_append_right _ _ _ _ (by omega), hl, Nat.sub_self]
  rfl

/-- Shapes of one window's length, each read as its bit, laid end to end are read as the bits (30_encoding.md rule R118). -/
theorem decodeWindows_flatMap {w : Nat} {f : Bool → List Bool} (hf : ∀ b, (f b).length = w)
    (hd : ∀ b, discriminate (f b) = some b) (bits rest : List Bool) :
    decodeWindows w bits.length (bits.flatMap f ++ rest) = some bits := by
  induction bits with
  | nil => rfl
  | cons b bs ih =>
    simp only [decodeWindows] at ih ⊢
    simp [windows, hf, hd, ih]

/-- What a Backend A build leaves in `FBA`: the frame in the used part, the old elements beyond it (10_state.md rule R31). -/
theorem build_readFba {s : State} (hA : s.cfg.backend = .A) (hw : Memory.wf s = true) (k : Nat) :
    readFba (build s) k =
      if k < Config.lenA s.strip.count.toNat then
        (frameA s.cfg s.strip.count.toNat s.strip.brightness s.strip.pix).getD k 0#16
      else readFba s k := by
  rw [Memory.wf_iff] at hw
  simp only [readFba, build, hA, Store.read_fill _ k hw.2.2.1, frameA_length]

/-- What a Backend B build leaves in `FBB`. -/
theorem build_readFbb {s : State} (hB : s.cfg.backend = .B) (hw : Memory.wf s = true) (k : Nat) :
    readFbb (build s) k =
      if k < Config.lenB s.strip.count.toNat then
        (frameB s.cfg s.strip.count.toNat s.strip.brightness s.strip.pix).getD k 0#8
      else readFbb s k := by
  rw [Memory.wf_iff] at hw
  simp only [readFbb, build, hB, Store.read_fill _ k hw.2.2.2.2.1, frameB_length]

/-- A build keeps the memories canonical and inside their capacities. -/
theorem build_wf {s : State} (hw : Memory.wf s = true) (hn : s.strip.count.toNat ≤ s.cfg.maxLeds) :
    Memory.wf (build s) = true := by
  rw [Memory.wf_iff] at hw ⊢
  obtain ⟨h1, h2, h3, h4, h5, h6⟩ := hw
  have ha : Config.lenA s.strip.count.toNat ≤ s.cfg.capA := by simp [Config.capA, Config.lenA]; omega
  have hb : Config.lenB s.strip.count.toNat ≤ s.cfg.capB := by simp [Config.capB, Config.lenB]; omega
  simp only [build_strip, build_cfg]
  unfold build
  split
  · exact ⟨h1, h2, Store.wfFrom_fill _ h3, Store.within_fill _ h4 (by simpa using ha), h5, h6⟩
  · exact ⟨h1, h2, h3, h4, Store.wfFrom_fill _ h5, Store.within_fill _ h6 (by simpa using hb)⟩

/-- What `PIX` reads as after the first `n` entries are cleared. -/
theorem clearPix_readPix {s : State} (hw : Memory.wf s = true) (n i : Nat) :
    readPix (clearPix n s) i = if i < n then Pixel.zero else readPix s i := by
  rw [Memory.wf_iff] at hw
  simp only [readPix, clearPix, Store.read_fill _ i hw.1, List.length_replicate]
  split
  · next h => simp [List.getD_eq_getElem?_getD, h]
  · rfl

/-- What `PIX` reads as after one write. -/
theorem writePix_readPix {s : State} (hw : Memory.wf s = true) (i j : Nat) (p : Pixel) :
    readPix (writePix i p s) j = if j = i then p else readPix s j := by
  rw [Memory.wf_iff] at hw
  simp only [readPix, writePix, Store.read_write p j hw.1]

theorem clearPix_wf {s : State} (hw : Memory.wf s = true) {n : Nat} (hn : n ≤ s.cfg.maxLeds) :
    Memory.wf (clearPix n s) = true := by
  rw [Memory.wf_iff] at hw ⊢
  obtain ⟨h1, h2, h3⟩ := hw
  exact ⟨Store.wfFrom_fill _ h1, Store.within_fill _ h2 (by simpa using hn), h3⟩

theorem writePix_wf {s : State} (hw : Memory.wf s = true) {i : Nat} (p : Pixel) (hi : i < s.cfg.maxLeds) :
    Memory.wf (writePix i p s) = true := by
  rw [Memory.wf_iff] at hw ⊢
  obtain ⟨h1, h2, h3⟩ := hw
  exact ⟨Store.wfFrom_write p h1 (Nat.zero_le i), Store.within_write p h2 hi, h3⟩

/-- The canonical form speaks of the memories and the parameters only. -/
theorem Memory.wf_congr {s t : State} (hc : t.cfg = s.cfg) (hp : t.strip.pix = s.strip.pix) (ha : t.fba = s.fba)
    (hb : t.fbb = s.fbb) : Memory.wf t = Memory.wf s := by
  simp [Memory.wf, hc, hp, ha, hb]

theorem liveCount_le (s : State) : liveCount s ≤ s.cfg.maxLeds := by unfold liveCount; split <;> omega

theorem liveCount_eq {s : State} (h : StripOk s) : liveCount s = s.strip.count.toNat := by
  simp [liveCount, h.bounded]

end Sys2Proof.Machine
end

