-- ==== Sys2Proof/Laws/Invariant.lean ====
section
/-! SUPPORT. The invariant of the block, agent by agent: what the sequencer, a command, the reader, the generator, the byte loop and
the serializer each keep of it, and that none of them stops a state that meets it. -/

namespace Sys2Proof.Machine

variable {s t : State}

/-! ### Bounds that follow from it -/

theorem lenA_lt (hl : s.cfg.legal = true) (hs : StripOk s) : Config.lenA s.strip.count.toNat < 2 ^ 16 := by
  rw [Config.legal_iff] at hl
  have := hs.bounded
  have h := hl.2.1
  simp only [Config.capA, Config.lenA] at h ⊢
  omega

theorem lenA_le_capA (hs : StripOk s) : Config.lenA s.strip.count.toNat ≤ s.cfg.capA := by
  have := hs.bounded
  simp only [Config.capA, Config.lenA]
  omega

theorem showLen_lt (hB : s.cfg.backend = .B) (hl : s.cfg.legal = true) (hs : StripOk s) : s.cfg.showLen s.strip.count.toNat < 2 ^ 16 := by
  rw [Config.legal_iff] at hl
  have := hs.bounded
  have h := hl.2.2.2.2.2.2.2.2.2.2.2.2.2.2.2.resolve_left (by rw [hB]; decide)
  simp only [Config.showLen, Config.lenB] at h ⊢
  omega

theorem resetBytes_lt {c : Config} (hB : c.backend = .B) (hl : c.legal = true) : c.resetBytes < 2 ^ 16 := by
  rw [Config.legal_iff] at hl
  have h := hl.2.2.2.2.2.2.2.2.2.2.2.2.2.2.2.resolve_left (by rw [hB]; decide)
  simp only [Config.showLen] at h
  omega

/-- The byte loop never presents an index outside `FBB` (20_memory.md rule R62). -/
theorem streamIndex_lt (hs : StripOk s) (hb : s.b.blen.toNat = s.cfg.showLen s.strip.count.toNat ∨
    s.b.blen.toNat = s.cfg.resetBytes) {k : Nat} (h : streamIndex s = some k) : k < s.cfg.capB := by
  have := hs.bounded
  unfold streamIndex at h
  split at h
  · next hh =>
    cases h
    simp only [Config.capB, Config.showLen, Config.lenB] at *
    omega
  · cases h

/-! ### Backend A -/

/-- The sequencer moves a busy block from one phase to the next, or back to rest (42_transport_a.md rule R190). -/
theorem sequencerA_phase (hl : s.cfg.legal = true) (hs : StripOk s)
    (h : PhaseA s.cfg (Config.lenA s.strip.count.toNat) s.a) (hn : s.a.tphase = .preSettle → s.showN = s.strip.count)
    (hb : s.busy = true) :
    ((sequencerA s).busy = true ∧ PhaseA s.cfg (Config.lenA s.strip.count.toNat) (sequencerA s).a) ∨
    ((sequencerA s).busy = false ∧ RestA (sequencerA s).a) := by
  have hlen := lenA_lt hl hs
  cases h with
  | preSettle hst hp hq =>
    simp only [sequencerA, hp, hn hp]
    split
    · refine .inl ⟨hb, .armed rfl rfl hq.pin hq.pwm hq.oe rfl rfl ⟨rfl, ?_, ?_⟩⟩
      · simpa using hlen
      · have : BitVec.ofNat 16 (Config.lenA s.strip.count.toNat) ≠ 0#16 := by
          intro e
          have := congrArg BitVec.toNat e
          simp only [BitVec.toNat_ofNat, Config.lenA] at this hlen
          omega
        simp [this]
    · exact .inl ⟨hb, .preSettle hst hp hq⟩
  | armed hst hp hpin hpwm hoe hcnt hper hr =>
    simp only [sequencerA, hp, hst, if_true]
    refine .inl ⟨hb, .waitTc rfl rfl ⟨rfl, rfl, rfl, hper, ?_⟩ ⟨hr.en, hr.sum, hr.tc⟩⟩
    rw [Config.legal_iff] at hl
    simp [hcnt]
    omega
  | waitTc hst hp hg hr =>
    simp only [sequencerA, hp]
    split
    · next htc => exact .inl ⟨hb, .waitUev hst rfl ⟨hg.pin, hg.pwm, hg.oe, hg.period, hg.inside⟩ ⟨hr.en, hr.sum, hr.tc⟩ htc⟩
    · exact .inl ⟨hb, .waitTc hst hp hg hr⟩
  | waitUev hst hp hg hr hd =>
    simp only [sequencerA, hp]
    split
    · exact .inl ⟨hb, .postSettle hst rfl ⟨rfl, rfl, rfl, rfl, rfl⟩⟩
    · exact .inl ⟨hb, .waitUev hst hp hg hr hd⟩
  | postSettle hst hp hq =>
    simp only [sequencerA, hp]
    split
    · exact .inr ⟨rfl, rfl, rfl, ⟨hq.pin, hq.pwm, hq.oe, hq.en, hq.req⟩⟩
    · exact .inl ⟨hb, .postSettle hst hp hq⟩
  | resetSettle hst hp hq =>
    simp only [sequencerA, hp]
    split
    · exact .inr ⟨rfl, hst, rfl, ⟨hq.pin, hq.pwm, hq.oe, hq.en, hq.req⟩⟩
    · exact .inl ⟨hb, .resetSettle hst hp hq⟩

/-- The generator's boundary actions keep the phase. -/
theorem PhaseA.boundary {c : Config} {len : Nat} {r : RegsA} (h : PhaseA c len r) (hp : r.pwmEn = true) :
    PhaseA c len r.boundary := by
  cases h with
  | preSettle _ _ hq | postSettle _ _ hq | resetSettle _ _ hq => rw [hq.pwm] at hp; cases hp
  | armed _ _ _ hw => rw [hw] at hp; cases hp
  | waitTc hst hph hg hr => exact .waitTc hst hph ⟨hg.pin, hg.pwm, hg.oe, hg.period, hg.inside⟩ ⟨hr.en, hr.sum, hr.tc⟩
  | waitUev hst hph hg hr hd =>
    exact .waitUev hst hph ⟨hg.pin, hg.pwm, hg.oe, hg.period, hg.inside⟩ ⟨hr.en, hr.sum, hr.tc⟩ hd

/-- One transfer of the reader keeps its place in the frame (42_transport_a.md rules R198, R200). -/
theorem ReaderOk.transfer {len : Nat} {r : RegsA} (h : ReaderOk len r) (hlen : len < 2 ^ 16) (hrem : r.dmaRem ≠ 0#16)
    (d : Duty) : ReaderOk len (r.transfer d) := by
  have hs := h.sum
  have hne : r.dmaRem.toNat ≠ 0 := fun e => hrem (BitVec.eq_of_toNat_eq (by simpa using e))
  have htc : r.dmaTc = false := by
    cases e : r.dmaTc with
    | false => rfl
    | true => exact absurd (h.tc.1 e) hrem
  refine ⟨h.en, ?_, ?_⟩
  · simp only [RegsA.transfer_dmaPtr, RegsA.transfer_dmaRem]
    rw [BitVec.toNat_add, BitVec.toNat_sub]
    simp only [BitVec.toNat_ofNat]
    omega
  · simp [htc]

/-- The reader has not left the frame while elements remain. -/
theorem ReaderOk.ptr_lt {len : Nat} {r : RegsA} (h : ReaderOk len r) (hrem : r.dmaRem ≠ 0#16) : r.dmaPtr.toNat < len := by
  have hs := h.sum
  have hne : r.dmaRem.toNat ≠ 0 := fun e => hrem (BitVec.eq_of_toNat_eq (by simpa using e))
  omega

/-- A phase in which the reader may act holds a reader in its place. -/
theorem PhaseA.readerOk {c : Config} {len : Nat} {r : RegsA} (h : PhaseA c len r) (he : r.dmaEn = true) : ReaderOk len r := by
  cases h with
  | preSettle _ _ hq | postSettle _ _ hq | resetSettle _ _ hq => rw [hq.en] at he; cases he
  | armed _ _ _ _ _ _ _ hr => exact hr
  | waitTc _ _ _ hr => exact hr
  | waitUev _ _ _ hr => exact hr

/-- A phase is kept where the registers it speaks of are, the reader's place apart. -/
theorem PhaseA.move {c : Config} {len : Nat} {r q : RegsA} (h : PhaseA c len r) (he : r.dmaEn = true)
    (h1 : q.tstate = r.tstate) (h2 : q.tphase = r.tphase) (h3 : q.pinMode = r.pinMode) (h4 : q.pwmEn = r.pwmEn)
    (h5 : q.oe = r.oe) (h6 : q.cnt = r.cnt) (h7 : q.period = r.period) (hr : ReaderOk len q)
    (htc : r.dmaTc = true → q.dmaTc = true) : PhaseA c len q := by
  cases h with
  | preSettle _ _ hq | postSettle _ _ hq | resetSettle _ _ hq => rw [hq.en] at he; cases he
  | armed a1 a2 a3 a4 a5 a6 a7 _ =>
    exact .armed (h1.trans a1) (h2.trans a2) (h3.trans a3) (h4.trans a4) (h5.trans a5) (h6.trans a6) (h7.trans a7) hr
  | waitTc a1 a2 g _ =>
    exact .waitTc (h1.trans a1) (h2.trans a2)
      ⟨h3.trans g.pin, h4.trans g.pwm, h5.trans g.oe, h7.trans g.period, h6 ▸ g.inside⟩ hr
  | waitUev a1 a2 g _ hd =>
    exact .waitUev (h1.trans a1) (h2.trans a2)
      ⟨h3.trans g.pin, h4.trans g.pwm, h5.trans g.oe, h7.trans g.period, h6 ▸ g.inside⟩ hr (htc hd)

/-- The counters' end of tick keeps the phase (R194, R202 (5)). -/
theorem PhaseA.endTick {c : Config} {len : Nat} {r : RegsA} (hl : c.legal = true) (h : PhaseA c len r) :
    PhaseA c len r.count.settleDown := by
  have hc : ∀ (_ : r.pwmEn = true) (_ : r.period = BitVec.ofNat 16 c.periodTicks),
      r.count.cnt.toNat < c.periodTicks := by
    intro hw hp
    rw [Config.legal_iff] at hl
    have h1 : r.period.toNat = c.periodTicks := by
      rw [hp, BitVec.toNat_ofNat, Nat.mod_eq_of_lt]
      omega
    unfold RegsA.count
    simp only [hw, if_true, h1, BitVec.toNat_ofNat]
    have : (r.cnt.toNat + 1) % c.periodTicks < c.periodTicks := Nat.mod_lt _ (by omega)
    rw [Nat.mod_eq_of_lt] <;> omega
  cases h with
  | preSettle hst hp hq => exact .preSettle (by simpa) (by simpa) ⟨by simpa using hq.pin, by simpa using hq.pwm, by simpa using hq.oe, by simpa using hq.en, by simpa using hq.req⟩
  | postSettle hst hp hq => exact .postSettle (by simpa) (by simpa) ⟨by simpa using hq.pin, by simpa using hq.pwm, by simpa using hq.oe, by simpa using hq.en, by simpa using hq.req⟩
  | resetSettle hst hp hq => exact .resetSettle (by simpa) (by simpa) ⟨by simpa using hq.pin, by simpa using hq.pwm, by simpa using hq.oe, by simpa using hq.en, by simpa using hq.req⟩
  | armed a1 a2 a3 a4 a5 a6 a7 hr =>
    refine .armed (by simpa) (by simpa) (by simpa) (by simpa) (by simpa) ?_ (by simpa) ⟨by simpa using hr.en, by simpa using hr.sum, by simpa using hr.tc⟩
    simp [RegsA.count, a4, a6]
  | waitTc a1 a2 g hr =>
    exact .waitTc (by simpa) (by simpa)
      ⟨by simpa using g.pin, by simpa using g.pwm, by simpa using g.oe, by simpa using g.period, by simpa using hc g.pwm g.period⟩
      ⟨by simpa using hr.en, by simpa using hr.sum, by simpa using hr.tc⟩
  | waitUev a1 a2 g hr hd =>
    exact .waitUev (by simpa) (by simpa)
      ⟨by simpa using g.pin, by simpa using g.pwm, by simpa using g.oe, by simpa using g.period, by simpa using hc g.pwm g.period⟩
      ⟨by simpa using hr.en, by simpa using hr.sum, by simpa using hr.tc⟩ (by simpa)

theorem RestA.endTick {r : RegsA} (h : RestA r) : RestA r.count.settleDown :=
  ⟨by simpa using h.state, by simpa using h.phase,
    ⟨by simpa using h.quiet.pin, by simpa using h.quiet.pwm, by simpa using h.quiet.oe, by simpa using h.quiet.en,
      by simpa using h.quiet.req⟩⟩

/-- The whole Backend A tick after the command port: it answers a next state and keeps the phase, which only the sequencer moves. -/
theorem agentsA_phase (hA : s.cfg.backend = .A) (hl : s.cfg.legal = true) (hs : StripOk s)
    (h : PhaseA s.cfg (Config.lenA s.strip.count.toNat) s.a) (stall : Bool) :
    ∃ r d, agents stall s = .next { s with dout := d, a := r } ∧ PhaseA s.cfg (Config.lenA s.strip.count.toNat) r ∧
      r.tphase = s.a.tphase := by
  have hg : ∃ r, generator s = { s with a := r } ∧ PhaseA s.cfg (Config.lenA s.strip.count.toNat) r ∧ r.tphase = s.a.tphase := by
    unfold generator
    split
    · next hb =>
      simp only [atBoundary, Bool.and_eq_true] at hb
      exact ⟨_, rfl, h.boundary hb.1, rfl⟩
    · exact ⟨s.a, rfl, h, rfl⟩
  obtain ⟨r, e, hr, ht⟩ := hg
  have hlen := lenA_lt hl hs
  have hcap := lenA_le_capA hs
  have hq : ∃ q, reader stall { s with a := r } = .next { s with a := q } ∧
      PhaseA s.cfg (Config.lenA s.strip.count.toNat) q ∧ q.tphase = r.tphase := by
    rw [reader_eq (by exact hA)]
    simp only
    split
    · next he =>
      have hro := hr.readerOk he.1
      split
      · exact ⟨_, rfl, hr.move he.1 rfl rfl rfl rfl rfl rfl rfl ⟨hro.en, hro.sum, hro.tc⟩ (fun e => e), rfl⟩
      · next hrem =>
        split
        · exact ⟨r, rfl, hr, rfl⟩
        · rw [if_pos (by have := hro.ptr_lt hrem; omega)]
          exact ⟨_, rfl, hr.move he.1 rfl rfl rfl rfl rfl rfl rfl (hro.transfer hlen hrem _)
            (fun e => by simp [e]), rfl⟩
    · exact ⟨r, rfl, hr, rfl⟩
  obtain ⟨q, e', hq, hqt⟩ := hq
  rw [agents_eq_A hA, e, e']
  exact ⟨_, _, rfl, hq.endTick hl, by simp [hqt, ht]⟩

/-- A Backend A block at rest stays at rest, its line low (R207). -/
theorem agentsA_rest (hA : s.cfg.backend = .A) (h : RestA s.a) (stall : Bool) :
    agents stall s = .next { s with dout := false, a := s.a.count.settleDown } := by
  have e : generator s = s := by simp [generator, atBoundary, h.quiet.pwm]
  rw [agents_eq_A hA, e, reader_eq hA]
  simp [h.quiet.en, endTickA, doutA, h.quiet.pin]

/-! ### Backend B -/

/-- The serializer's end of tick keeps its ranges (43_transport_b.md rule R232, 10_state.md rule R48). -/
theorem SerializerOk.shift {c : Config} {r : RegsB} (h : SerializerOk c r) : SerializerOk c (r.shift c) := by
  have hb := h.bits
  have ht := h.ticks
  unfold RegsB.shift
  split
  · exact h
  · next hne =>
    have hne : r.srCnt.toNat ≠ 0 := fun e => hne (BitVec.eq_of_toNat_eq (by simpa using e))
    split
    · refine ⟨?_, ?_⟩
      · simp only [BitVec.toNat_sub, BitVec.toNat_ofNat]
        omega
      · show 0 < c.sbitTicks
        omega
    · exact ⟨hb, by show r.sbitCnt + 1 < c.sbitTicks; omega⟩

theorem SerializerOk.load {c : Config} {r : RegsB} (h : SerializerOk c r) : SerializerOk c r.load := by
  have ht := h.ticks
  unfold RegsB.load
  split
  · exact ⟨by simp, by show 0 < c.sbitTicks; omega⟩
  · exact h

/-- A Backend B block at rest stays as it is, its line low (R240). -/
theorem agentsB_rest (hB : s.cfg.backend = .B) (h : RestB s.b) (hs : s.busy = false ∨ s.buildCnt ≠ 0) (stall : Bool) :
    agents stall s = .next { s with dout := false } := by
  have hn : sending s = false := by
    unfold sending
    rcases hs with e | e <;> simp [e]
  have e : byteLoop s = .next s := by simp [byteLoop, hn]
  have el : loadB s = s := by simp [loadB, RegsB.load, h.empty]
  rw [agents, hB]
  simp only [agentsB, e, Result.andThen_next, el, serialize_eq hB]
  simp [endTickB, doutB, RegsB.shift, h.idle]

/-- The whole Backend B tick after the command port: it answers a next state and keeps stream and serializer in their ranges. -/
theorem agentsB_sending (hB : s.cfg.backend = .B) (hs : StripOk s)
    (h : SendingB s.cfg s.strip.count.toNat s.b) (hr : SerializerOk s.cfg s.b) (stall : Bool) :
    ∃ q d, agents stall s = .next { s with dout := d, b := q } ∧ SendingB s.cfg s.strip.count.toNat q ∧
      SerializerOk s.cfg q := by
  rw [agents_eq_B hB stall (fun k hk => streamIndex_lt hs h.length hk)]
  have hin := h.inside
  split
  · next hsend =>
    simp only [sending, Bool.and_eq_true, decide_eq_true_eq] at hsend
    have hlt : s.b.bpos.toNat < s.b.blen.toNat := hsend.1.2
    refine ⟨_, _, rfl, ⟨?_, ?_⟩, ?_⟩
    · simp only [loadB_b, writeByte_b, RegsB.shift_bpos, RegsB.shift_blen, RegsB.load_bpos, RegsB.load_blen, RegsB.send_bpos,
        RegsB.send_blen, BitVec.toNat_add, BitVec.toNat_ofNat]
      have := s.b.blen.isLt
      omega
    · simpa using h.length
    · exact (SerializerOk.load (c := s.cfg) (r := s.b.send _) ⟨by simpa using hr.bits, by simpa using hr.ticks⟩).shift
  · refine ⟨_, _, rfl, ⟨?_, ?_⟩, ?_⟩
    · simpa using h.inside
    · simpa using h.length
    · exact hr.load.shift

/-! ### The invariant itself -/

/-- What of the invariant does not speak of a transport. -/
theorem BlockInv.congr (h : BlockInv s) (hc : t.cfg = s.cfg) (hs : t.strip = s.strip) (ha : t.fba = s.fba) (hb : t.fbb = s.fbb)
    (hbusy : t.busy = true → t.strip.inited = true) (hwait : t.buildCnt ≠ 0 → t.busy = true)
    (hA : t.cfg.backend = .A → TransportOkA t) (hB : t.cfg.backend = .B → TransportOkB t)
    (hN : t.buildCnt ≠ 0 ∨ t.cfg.backend = .A ∧ t.a.tphase = .preSettle → t.showN = t.strip.count) : BlockInv t :=
  ⟨by rw [hc]; exact h.legal,
    ⟨by rw [hc, hs]; exact h.strip.bounded, by rw [hs]; exact h.strip.fresh, by rw [hs]; exact h.strip.bound⟩,
    by rw [Memory.wf_congr hc (by rw [hs]) ha hb]; exact h.memory, hbusy, hwait, hA, hB, hN⟩

theorem BlockInv.beginTick (h : BlockInv s) : BlockInv (beginTick s) :=
  h.congr rfl rfl rfl rfl h.started h.waiting (fun e => ⟨(h.onA e).rest, (h.onA e).run⟩)
    (fun e => ⟨(h.onB e).serializer, (h.onB e).rest, (h.onB e).run⟩) h.sampled

/-- Nothing of a `show` is pending in a block at rest. -/
theorem BlockInv.not_pending (h : BlockInv s) (hb : s.busy = false) :
    ¬ (s.buildCnt ≠ 0 ∨ s.cfg.backend = .A ∧ s.a.tphase = .preSettle) := by
  rintro (h0 | ⟨hA, hp⟩)
  · rw [h.waiting h0] at hb
    cases hb
  · rw [((h.onA hA).rest (.inl hb)).phase] at hp
    cases hp

/-- Hardware reset gives a state that meets the invariant, whatever the state before (70_reset_and_hazards.md rule R310). -/
theorem resetWith_parts {c : Config} (hl : c.legal = true) (u : ResetDraw) :
    Memory.wf (State.resetWith c u) = true ∧ StripOk (State.resetWith c u) ∧ RestA (State.resetWith c u).a ∧
      RestB (State.resetWith c u).b ∧ SerializerOk c (State.resetWith c u).b := by
  rw [Config.legal_iff] at hl
  refine ⟨?_, ⟨Nat.zero_le _, fun _ => rfl, fun e => by cases e⟩, ⟨rfl, rfl, ⟨rfl, rfl, rfl, rfl, rfl⟩⟩, ⟨rfl, rfl, rfl⟩,
    ⟨Nat.zero_le _, by show 0 < c.sbitTicks; omega⟩⟩
  rw [Memory.wf_iff]
  refine ⟨Store.wfFrom_listed _ 0, Store.within_listed _ ?_, Store.wfFrom_listed _ 0, Store.within_listed _ ?_,
    Store.wfFrom_listed _ 0, Store.within_listed _ ?_⟩ <;> simp [State.resetWith]

theorem BlockInv.hardwareReset (h : s.cfg.legal = true) : BlockInv (hardwareReset s) := by
  obtain ⟨hw, hs, ha, hb, hr⟩ := resetWith_parts h (Config.freeDraw s.ticks)
  exact ⟨h, ⟨hs.bounded, hs.fresh, hs.bound⟩, hw, fun e => (by cases e), fun e => absurd rfl e,
    fun _ => ⟨fun _ => ha, fun e => (by cases e)⟩, fun _ => ⟨hr, fun _ => hb, fun e => (by cases e)⟩, fun _ => rfl⟩

/-- The start of a transport puts its first phase in place (R190, R231, R235). -/
theorem BlockInv.startTransport (hl : s.cfg.legal = true) (hs : StripOk s) (hw : Memory.wf s = true)
    (hi : s.strip.inited = true) (hb : s.busy = true) (h0 : s.buildCnt = 0)
    (hN : s.showN = s.strip.count)
    (hA : s.cfg.backend = .A → RestA s.a) (hB : s.cfg.backend = .B → SerializerOk s.cfg s.b) :
    BlockInv (startTransport s) := by
  refine ⟨by simpa, ⟨by simpa using hs.bounded, by simpa using hs.fresh, by simpa using hs.bound⟩,
    by rw [Memory.wf_congr (s := s)] <;> simp [hw], by simp [hi], by simp [h0], ?_, ?_, by simp [hN]⟩
  · intro e
    simp only [startTransport_cfg] at e
    have hq := (hA e).quiet
    refine ⟨by simp [hb, h0], fun _ _ => ?_⟩
    simp only [Machine.startTransport, e]
    exact .preSettle (hA e).state rfl ⟨rfl, hq.pwm, hq.oe, hq.en, hq.req⟩
  · intro e
    simp only [startTransport_cfg] at e
    have hr := hB e
    have hn := showLen_lt e hl hs
    refine ⟨?_, by simp [hb, h0], fun _ _ => ?_⟩
    · simp only [Machine.startTransport, e]
      exact ⟨hr.bits, hr.ticks⟩
    · simp only [Machine.startTransport, e]
      exact ⟨Nat.zero_le _, .inl (by simpa [hN] using hn)⟩

/-- The sequencer keeps the invariant (R190, R202 (1), R235, R236 (1)). -/
theorem BlockInv.sequencer (h : BlockInv s) : BlockInv (sequencer s) := by
  unfold Machine.sequencer
  split
  · next hb =>
    split
    · next h0 =>
      split
      · next hA =>
        have hcfg : (sequencerA s).cfg = s.cfg ∧ (sequencerA s).strip = s.strip ∧ (sequencerA s).fba = s.fba ∧
            (sequencerA s).fbb = s.fbb ∧ (sequencerA s).buildCnt = s.buildCnt ∧
            ((sequencerA s).a.tphase = .preSettle → s.a.tphase = .preSettle) := by
          unfold sequencerA
          (repeat' split) <;> refine ⟨rfl, rfl, rfl, rfl, rfl, fun e => ?_⟩ <;> first | exact e | cases e
        obtain ⟨e1, e2, e3, e4, e5, e6⟩ := hcfg
        refine h.congr e1 e2 e3 e4 ?_ (by rw [e5]; simp [h0]) (fun _ => ?_) (fun e => by rw [e1, hA] at e; cases e)
          (by rw [e5, e2, sequencerA_showN]; rintro (e | e)
              · exact absurd h0 e
              · exact h.sampled (.inr ⟨hA, e6 e.2⟩))
        · intro _; rw [e2]; exact h.started hb
        · rcases sequencerA_phase h.legal h.strip ((h.onA hA).run hb h0) (fun e => h.sampled (.inr ⟨hA, e⟩)) hb with ⟨b1, p⟩ | ⟨b1, p⟩
          · exact ⟨by rw [e5]; simp [b1, h0], fun _ _ => by rw [e1, e2]; exact p⟩
          · exact ⟨fun _ => p, by simp [b1]⟩
      · next hB =>
        have hs := (h.onB hB).run hb h0
        unfold sequencerB
        split
        · next hd =>
          simp only [spiTc, Bool.and_eq_true, beq_iff_eq, Bool.not_eq_true'] at hd
          exact h.congr rfl rfl rfl rfl (fun e => by cases e) (by simp [h0]) (fun e => by rw [hB] at e; cases e)
            (fun _ => ⟨(h.onB hB).serializer, fun _ => ⟨hd.2.2, hd.2.1, hd.1⟩, fun e => by cases e⟩) h.sampled
        · exact h
    · next h0 =>
      unfold awaitBuild
      split
      · exact BlockInv.startTransport (s := { s with buildCnt := 0 }) h.legal
          ⟨h.strip.bounded, h.strip.fresh, h.strip.bound⟩ h.memory (h.started hb) hb rfl
          (h.sampled (.inl h0)) (fun e => (h.onA e).rest (.inr h0)) (fun e => (h.onB e).serializer)
      · next h1 =>
        have hne : s.buildCnt - 1 ≠ 0 := by omega
        exact h.congr rfl rfl rfl rfl h.started (fun _ => hb)
          (fun e => ⟨fun _ => (h.onA e).rest (.inr h0), fun _ e' => absurd e' hne⟩)
          (fun e => ⟨(h.onB e).serializer, fun _ => (h.onB e).rest (.inr h0), fun _ e' => absurd e' hne⟩)
          (fun _ => h.sampled (.inl h0))
  · exact h

/-- A command keeps the invariant where it is accepted, that is while the block is not busy. -/
theorem BlockInv.command (h : BlockInv s) (hb : s.busy = false) (e : CommandEffect s t) : BlockInv t := by
  have h0 : s.buildCnt = 0 := by
    by_contra hne
    rw [h.waiting hne] at hb
    cases hb
  have restA : s.cfg.backend = .A → RestA s.a := fun e => (h.onA e).rest (.inl hb)
  have restB : s.cfg.backend = .B → RestB s.b := fun e => (h.onB e).rest (.inl hb)
  have hlive := liveCount_eq h.strip
  cases e with
  | same => exact h
  | response v =>
    exact h.congr rfl rfl rfl rfl h.started h.waiting (fun e => ⟨(h.onA e).rest, (h.onA e).run⟩)
      (fun e => ⟨(h.onB e).serializer, (h.onB e).rest, (h.onB e).run⟩) h.sampled
  | bind n pos bound idle =>
    have hpos : 1 ≤ n.toNat := by
      have : n.toNat ≠ 0 := fun e => pos (BitVec.eq_of_toNat_eq (by simpa using e))
      omega
    have hs := h.legal
    rw [Config.legal_iff] at hs
    refine ⟨by simpa [bindStrip] using h.legal, ⟨by simpa [bindStrip] using bound, by simp [bindStrip],
      fun _ => by simpa [bindStrip] using hpos⟩, ?_, by simp [bindStrip], by simp [bindStrip, h0], fun e => ?_, fun e => ?_, ?_⟩
    · rw [Memory.wf_congr (s := clearPix n.toNat s) (by simp [bindStrip]) (by simp [bindStrip]) (by simp [bindStrip])
        (by simp [bindStrip])]
      exact clearPix_wf h.memory bound
    · have e' : s.cfg.backend = .A := by simpa [bindStrip] using e
      refine ⟨fun _ => ?_, by simp [bindStrip, hb]⟩
      simp only [bindStrip, transportSetup, clearPix_cfg, e']
      exact ⟨rfl, rfl, ⟨rfl, rfl, rfl, rfl, rfl⟩⟩
    · have e' : s.cfg.backend = .B := by simpa [bindStrip] using e
      refine ⟨?_, fun _ => ?_, by simp [bindStrip, hb]⟩
      · simp only [bindStrip, transportSetup, clearPix_cfg, e']
        exact ⟨Nat.zero_le _, by show 0 < s.cfg.sbitTicks; omega⟩
      · simp only [bindStrip, transportSetup, clearPix_cfg, e']
        exact ⟨rfl, rfl, rfl⟩
    · rintro (e | ⟨e, e1⟩)
      · simp [bindStrip, h0] at e
      · have e' : s.cfg.backend = .A := by simpa [bindStrip] using e
        simp only [bindStrip, transportSetup, clearPix_cfg, e'] at e1
        cases e1
  | clear =>
    exact ⟨h.legal, ⟨h.strip.bounded, h.strip.fresh, h.strip.bound⟩, clearPix_wf h.memory (liveCount_le s), h.started,
      h.waiting, fun e => ⟨(h.onA e).rest, (h.onA e).run⟩, fun e => ⟨(h.onB e).serializer, (h.onB e).rest, (h.onB e).run⟩, h.sampled⟩
  | pixel i p live =>
    have : i.toNat < s.cfg.maxLeds := by
      simp only [indexLive, decide_eq_true_eq] at live
      have := liveCount_le s
      omega
    exact ⟨h.legal, ⟨h.strip.bounded, h.strip.fresh, h.strip.bound⟩, writePix_wf h.memory p this, h.started,
      h.waiting, fun e => ⟨(h.onA e).rest, (h.onA e).run⟩, fun e => ⟨(h.onB e).serializer, (h.onB e).rest, (h.onB e).run⟩, h.sampled⟩
  | brightness v =>
    exact ⟨h.legal, ⟨h.strip.bounded, h.strip.fresh, h.strip.bound⟩, h.memory, h.started,
      h.waiting, fun e => ⟨(h.onA e).rest, (h.onA e).run⟩, fun e => ⟨(h.onB e).serializer, (h.onB e).rest, (h.onB e).run⟩, h.sampled⟩
  | showing live idle =>
    have hi : s.strip.inited = true := by
      by_contra hne
      have := h.strip.fresh (by simpa using hne)
      simp [hlive, this] at live
    have hw : Memory.wf (build { s with busy := true, showN := s.strip.count }) = true := build_wf (s := { s with busy := true, showN := s.strip.count }) h.memory h.strip.bounded
    have hs : StripOk (build { s with busy := true, showN := s.strip.count }) :=
      ⟨by simpa using h.strip.bounded, by simpa using h.strip.fresh, by simpa using h.strip.bound⟩
    unfold beginShow
    simp only
    split
    · exact BlockInv.startTransport (by simpa using h.legal) hs hw (by simpa using hi) (by simp) (by simpa using h0) (by simp)
        (fun e => by simpa using restA (by simpa using e)) (fun e => by simpa using (h.onB (by simpa using e)).serializer)
    · next hne =>
      exact ⟨by simpa using h.legal, ⟨hs.bounded, hs.fresh, hs.bound⟩, hw, fun _ => by simpa using hi, fun _ => by simp,
        fun e => ⟨fun _ => by simpa using restA (by simpa using e), fun _ e' => absurd e' hne⟩,
        fun e => ⟨by simpa using (h.onB (by simpa using e)).serializer, fun _ => by simpa using restB (by simpa using e),
          fun _ e' => absurd e' hne⟩, fun _ => by simp⟩
  | latching inited idle =>
    refine ⟨by simpa using h.legal, ⟨by simpa using h.strip.bounded, by simpa using h.strip.fresh, by simpa using h.strip.bound⟩,
      by rw [Memory.wf_congr (s := s)] <;> simp [h.memory], by simp [inited], by simp [h0], ?_, ?_, ?_⟩
    · intro e
      simp only [beginReset_cfg] at e
      have hq := (restA e).quiet
      refine ⟨by simp [h0], fun _ _ => ?_⟩
      simp only [beginReset, e]
      exact .resetSettle (restA e).state rfl ⟨rfl, hq.pwm, hq.oe, hq.en, hq.req⟩
    · intro e
      simp only [beginReset_cfg] at e
      have hr := (h.onB e).serializer
      have hlt := resetBytes_lt e h.legal
      refine ⟨?_, by simp [h0], fun _ _ => ?_⟩
      · simp only [beginReset, e]
        exact ⟨hr.bits, hr.ticks⟩
      · simp only [beginReset, e]
        exact ⟨Nat.zero_le _, .inr (by simpa using hlt)⟩
    · rintro (e | ⟨e, e1⟩)
      · simp [h0] at e
      · simp only [beginReset_cfg] at e
        simp only [beginReset, e] at e1
        cases e1

/-- The agents of a tick answer a next state and keep the invariant (R202 (2) to (5), R236). -/
theorem BlockInv.agents (h : BlockInv s) (stall : Bool) : ∃ t, agents stall s = .next t ∧ BlockInv t := by
  cases e : s.cfg.backend with
  | A =>
    have ne : s.cfg.backend ≠ .B := by rw [e]; decide
    by_cases hr : s.busy = true ∧ s.buildCnt = 0
    · obtain ⟨r, d, he, hp, ht⟩ := agentsA_phase e h.legal h.strip ((h.onA e).run hr.1 hr.2) stall
      refine ⟨_, he, h.congr rfl rfl rfl rfl h.started h.waiting (fun _ => ⟨fun hh => ?_, fun _ _ => hp⟩) (fun e' => absurd e' ne)
        (fun hh => h.sampled (hh.imp id (fun k => ⟨e, ht ▸ k.2⟩)))⟩
      rcases hh with hh | hh
      · rw [show s.busy = false from hh] at hr; cases hr.1
      · exact absurd hr.2 hh
    · have hrest : s.busy = false ∨ s.buildCnt ≠ 0 := by
        by_cases hb : s.busy = true
        · exact .inr (fun h0 => hr ⟨hb, h0⟩)
        · exact .inl (by simpa using hb)
      have ha := (h.onA e).rest hrest
      exact ⟨_, agentsA_rest e ha stall, h.congr rfl rfl rfl rfl h.started h.waiting
        (fun _ => ⟨fun _ => ha.endTick, fun h1 h2 => absurd ⟨h1, h2⟩ hr⟩) (fun e' => absurd e' ne)
        (fun hh => h.sampled (hh.imp id (fun k => ⟨e, by simpa using k.2⟩)))⟩
  | B =>
    have ne : s.cfg.backend ≠ .A := by rw [e]; decide
    by_cases hr : s.busy = true ∧ s.buildCnt = 0
    · obtain ⟨q, d, he, hp, hq⟩ := agentsB_sending e h.strip ((h.onB e).run hr.1 hr.2) (h.onB e).serializer stall
      refine ⟨_, he, h.congr rfl rfl rfl rfl h.started h.waiting (fun e' => absurd e' ne) (fun _ => ⟨hq, fun hh => ?_, fun _ _ => hp⟩) h.sampled⟩
      rcases hh with hh | hh
      · rw [show s.busy = false from hh] at hr; cases hr.1
      · exact absurd hr.2 hh
    · have hrest : s.busy = false ∨ s.buildCnt ≠ 0 := by
        by_cases hb : s.busy = true
        · exact .inr (fun h0 => hr ⟨hb, h0⟩)
        · exact .inl (by simpa using hb)
      have hb := (h.onB e).rest hrest
      exact ⟨_, agentsB_rest e hb hrest stall, h.congr rfl rfl rfl rfl h.started h.waiting (fun e' => absurd e' ne)
        (fun _ => ⟨(h.onB e).serializer, fun _ => hb, fun h1 h2 => absurd ⟨h1, h2⟩ hr⟩) h.sampled⟩

end Sys2Proof.Machine
end

