-- ==== Sys2Proof/Laws/PerInstr.lean ====
section
/-! SUPPORT. The family `TableRow`: what the encoded word of each row of the opcode table carries (30_encoding.md rules R91, R94, R95), said
per instruction. -/

namespace Sys2Proof.Laws.TableRow

/-- The word of a command or reserved instruction carries its opcode and, as a host sends them, zero reserved bits; a wire code is no
word of the command port. -/
def Statement (i : Instr) : Prop :=
  match opcodeOf i with
  | some op => ∀ c : Config, ∃ w, encode c i = .cmd w ∧ w.extractLsb' 44 4 = op ∧ w.extractLsb' 40 2 = 0#2
  | none => ∀ (c : Config) (w : CmdWord), encode c i ≠ .cmd w

/-- The opcode and the reserved bits of a packed word are the fields'. -/
theorem packed_carries (f : CmdFields) {op : BitVec 4} (ho : f.op = op) (hr : f.rsv = 0#2) :
    ∃ w, packed f = .cmd w ∧ w.extractLsb' 44 4 = op ∧ w.extractLsb' 40 2 = 0#2 := by
  have h := cmdFields_packFields f
  exact ⟨packFields f, rfl, (congrArg CmdFields.op h).trans ho, (congrArg CmdFields.rsv h).trans hr⟩

theorem init (h s : Bool) (count : Half) : Statement (.init h s count) := fun _ => packed_carries _ rfl rfl

theorem clear (h : Bool) : Statement (.clear h) := fun _ => packed_carries _ rfl rfl

theorem setPixel (h : Bool) (index : Half) (r g b : Byte) : Statement (.setPixel h index r g b) :=
  fun _ => packed_carries _ rfl rfl

theorem getPixel (h : Bool) (index : Half) : Statement (.getPixel h index) := fun _ => packed_carries _ rfl rfl

theorem setBrightness (h : Bool) (value : Byte) : Statement (.setBrightness h value) := fun _ => packed_carries _ rfl rfl

theorem getBrightness (h : Bool) : Statement (.getBrightness h) := fun _ => packed_carries _ rfl rfl

theorem showFrame (h : Bool) : Statement (.showFrame h) := fun _ => packed_carries _ rfl rfl

theorem resetLine (h : Bool) : Statement (.resetLine h) := fun _ => packed_carries _ rfl rfl

theorem reserved0 : Statement .reserved0 := fun _ => packed_carries _ rfl rfl

theorem reserved9 : Statement .reserved9 := fun _ => packed_carries _ rfl rfl

theorem reservedA : Statement .reservedA := fun _ => packed_carries _ rfl rfl

theorem reservedB : Statement .reservedB := fun _ => packed_carries _ rfl rfl

theorem reservedC : Statement .reservedC := fun _ => packed_carries _ rfl rfl

theorem reservedD : Statement .reservedD := fun _ => packed_carries _ rfl rfl

theorem reservedE : Statement .reservedE := fun _ => packed_carries _ rfl rfl

theorem reservedF : Statement .reservedF := fun _ => packed_carries _ rfl rfl

theorem aGuard : Statement .aGuard := fun _ _ h => nomatch h

theorem aBit0 : Statement .aBit0 := fun _ _ h => nomatch h

theorem aBit1 : Statement .aBit1 := fun _ _ h => nomatch h

theorem bBit0 : Statement .bBit0 := fun _ _ h => nomatch h

theorem bBit1 : Statement .bBit1 := fun _ _ h => nomatch h

theorem bPair00 : Statement .bPair00 := fun _ _ h => nomatch h

theorem bPair01 : Statement .bPair01 := fun _ _ h => nomatch h

theorem bPair10 : Statement .bPair10 := fun _ _ h => nomatch h

theorem bPair11 : Statement .bPair11 := fun _ _ h => nomatch h

theorem bGuard : Statement .bGuard := fun _ _ h => nomatch h

end Sys2Proof.Laws.TableRow
end

