-- ==== Sys2Proof/Tests/Slice0.lean ====
section
/-! SUPPORT. The model's own tests: ill-formed terms that the checks refuse; every row of the opcode table decoded from a word
written out bit by bit from 30_encoding.md; single instructions and steps with results taken from 95_test_vectors.md or worked by hand
from the rule named; and, for every statement with hypotheses, a state and operands that meet them all. -/

namespace Sys2Proof.Tests

open Sys2Proof.Machine

/-! ### Checks refuse what is ill formed -/

theorem test_wellFormed_refuses_dutyOnB : Instr.wellFormed (Config.defaults .B) .aGuard = false := by decide

theorem test_wellFormed_refuses_byteOnA : Instr.wellFormed (Config.defaults .A) .bPair01 = false := by decide

theorem test_wellFormed_takes_commandsOnBoth : Instr.wellFormed (Config.defaults .A) (.clear false) = true ∧
    Instr.wellFormed (Config.defaults .B) .reservedF = true := by decide

theorem test_legal_takes_defaults : (Config.defaults .A).legal = true ∧ (Config.defaults .B).legal = true := by decide

theorem test_legal_refuses_maxLeds : Config.legal { Config.defaults .A with maxLeds := 0 } = false := by decide

theorem test_legal_refuses_capacity : Config.legal { Config.defaults .A with maxLeds := 2731 } = false := by decide

theorem test_legal_refuses_defaultBrightness :
    Config.legal { Config.defaults .A with defaultBrightness := 255#8 } = false := by decide

theorem test_legal_refuses_shortPeriod :
    Config.legal { Config.defaults .A with periodTicks := 3, duty0Ticks := 1, duty1Ticks := 2 } = false := by decide

theorem test_legal_refuses_widePeriod : Config.legal { Config.defaults .A with periodTicks := 65536 } = false := by decide

theorem test_legal_refuses_zeroDuty : Config.legal { Config.defaults .A with duty0Ticks := 0 } = false := by decide

theorem test_legal_refuses_equalDuties : Config.legal { Config.defaults .A with duty0Ticks := 41 } = false := by decide

theorem test_legal_refuses_fullDuty : Config.legal { Config.defaults .A with duty1Ticks := 60 } = false := by decide

theorem test_legal_refuses_settle : Config.legal { Config.defaults .A with settleTicks := 0 } = false ∧
    Config.legal { Config.defaults .A with settleTicks := 65536 } = false := by decide

theorem test_legal_refuses_sbit : Config.legal { Config.defaults .B with sbitTicks := 0 } = false := by decide

theorem test_legal_refuses_codes : Config.legal { Config.defaults .B with code0Nib := 0b0100#4 } = false ∧
    Config.legal { Config.defaults .B with code1Nib := 0b1111#4 } = false ∧
    Config.legal { Config.defaults .B with code0Nib := 0b1110#4, code1Nib := 0b1110#4 } = false := by decide

theorem test_legal_refuses_resetBytes : Config.legal { Config.defaults .B with resetBytes := 0 } = false ∧
    Config.legal { Config.defaults .B with resetBytes := 40000 } = false := by decide

/-- The stream's length binds a Backend B block alone (R9, R46). -/
theorem test_legal_takes_resetBytes_onA : Config.legal { Config.defaults .A with resetBytes := 40000 } = true := by decide

/-! ### Decoding: OP, H, S, RSV, IDX, R, G, B in R90's order; the codes at R9's defaults -/

theorem test_decode_init : decodeTableWord 48 0b000111000000000000000011000000000000000000000000 =
    some (.init true true 3#16) := by decide

theorem test_decode_clear : decodeTableWord 48 0b001010000000000000000000000000000000000000000000 =
    some (.clear true) := by decide

theorem test_decode_setPixel : decodeTableWord 48 0b001110000000000000000010000000010000001000000011 =
    some (.setPixel true 2#16 1#8 2#8 3#8) := by decide

theorem test_decode_setPixel_unread : decodeTableWord 48 0x3FFFFFFFFFFF =
    some (.setPixel true 65535#16 255#8 255#8 255#8) := by decide

theorem test_decode_getPixel : decodeTableWord 48 0b010010000000000000000010000000000000000000000000 =
    some (.getPixel true 2#16) := by decide

theorem test_decode_setBrightness : decodeTableWord 48 0b010110000000000000000000000000000000000010000000 =
    some (.setBrightness true 128#8) := by decide

theorem test_decode_getBrightness : decodeTableWord 48 0b011000000000000000000000000000000000000000000000 =
    some (.getBrightness false) := by decide

theorem test_decode_show : decodeTableWord 48 0x7800FFFFFFFF = some (.showFrame true) := by decide

theorem test_decode_reset : decodeTableWord 48 0b100010000000000000000000000000000000000000000000 =
    some (.resetLine true) := by decide

theorem test_decode_reserved : decodeTableWord 48 0x080000000000 = some .reserved0 ∧
    decodeTableWord 48 0x900000000000 = some .reserved9 ∧ decodeTableWord 48 0xA00000000000 = some .reservedA ∧
    decodeTableWord 48 0xB00000000000 = some .reservedB ∧ decodeTableWord 48 0xC00000000000 = some .reservedC ∧
    decodeTableWord 48 0xD00000000000 = some .reservedD ∧ decodeTableWord 48 0xE00000000000 = some .reservedE ∧
    decodeTableWord 48 0xF80000000000 = some .reservedF := by decide

theorem test_decode_duties : decodeTableWord 16 0b0000000000000000 = some .aGuard ∧
    decodeTableWord 16 0b0000000000010011 = some .aBit0 ∧ decodeTableWord 16 0b0000000000101001 = some .aBit1 ∧
    decodeTableWord 16 20 = none := by decide

theorem test_decode_nibbles : decodeTableWord 8 0b1000 = some .bBit0 ∧ decodeTableWord 8 0b1110 = some .bBit1 ∧
    decodeTableWord 8 0b1100 = none := by decide

theorem test_decode_bytes : decodeTableWord 8 0b10001000 = some .bPair00 ∧ decodeTableWord 8 0b10001110 = some .bPair01 ∧
    decodeTableWord 8 0b11101000 = some .bPair10 ∧ decodeTableWord 8 0b11101110 = some .bPair11 ∧
    decodeTableWord 8 0b00000000 = some .bGuard ∧ decodeTableWord 8 0xEC = none := by decide

/-- R97's notation, P2 step 4 and P3 step 5. -/
theorem test_text : (Instr.setPixel true 1#16 18#8 165#8 240#8).text? = some "set_pixel(strip, 1, 18, 165, 240)" ∧
    (Instr.init true false 4#16).text? = some "init(strip, null, 4)" := by decide

/-! ### Small states -/

/-- Small legal parameters: two LEDs at most, a period of 4 ticks, one tick of settle, one tick a bit-time, one byte a reset block. -/
def tiny (b : Backend) : Config where
  backend := b
  maxLeds := 2
  defaultBrightness := 64#8
  tickHz := 1
  periodTicks := 4
  duty0Ticks := 1
  duty1Ticks := 3
  settleTicks := 1
  sbitTicks := 1
  code0Nib := 0b1000#4
  code1Nib := 0b1110#4
  resetBytes := 1
  buildTicks := 0
  reinit := .refuse

/-- Just reset. -/
def fresh (b : Backend) : State := State.resetWith (tiny b) ResetDraw.zero

/-- Initialised with one LED, full brightness, its pixel `(0x12, 0xA5, 0xF0)`, and shown before. -/
def lit (b : Backend) : State :=
  { fresh b with
    strip := { inited := true, count := 1#16, brightness := 255#8, pix := [(0, { r := 0x12#8, g := 0xA5#8, b := 0xF0#8 })] }
    showN := 1#16 }

/-- With a command word on the port in the next tick. -/
def asked (w : CmdWord) (s : State) : State := { s with inputs := [{ rst := false, cmd := some w, stall := false }] }

/-- A Backend A block in the given phase of a `show`, the settle counter at `n`. -/
def phaseA (st : TState) (ph : TPhase) (n : Half) : State :=
  { lit .A with busy := true, a := { (fresh .A).a with tstate := st, tphase := ph, settleCnt := n } }

/-- A Backend A block whose generator runs, at tick `cnt` of a period, with `rem` elements to move. -/
def running (ph : TPhase) (cnt rem : Half) : State :=
  { lit .A with
    busy := true
    a := { (fresh .A).a with
      tstate := .transmitting, tphase := ph, pinMode := .pwm, pwmEn := true, oe := true, period := 4#16, cnt := cnt
      ccrPre := 3#16, ccrAct := 1#16, dmaEn := true, dmaPtr := 26#16 - rem, dmaRem := rem, dmaTc := rem == 0#16 } }

/-- A Backend A block in its one `ARMED` tick, the priming request served. -/
def armed : State :=
  { lit .A with
    busy := true
    a := { (fresh .A).a with tstate := .armed, period := 4#16, dmaEn := true, dmaPtr := 1#16, dmaRem := 25#16 } }

/-- A Backend B block sending its stream of 16 bytes, at position `p`, with the byte `y` waiting or not. -/
def sendingB (p : Half) (full : Bool) (y : Byte) : State :=
  { lit .B with busy := true, b := { (fresh .B).b with bpos := p, blen := 16#16, drFull := full, dr := y } }

/-- The state a next outcome holds. -/
def result (r : Result) : Option State :=
  match r with
  | .next s => some s
  | .fault _ => none
  | .refused _ => none

/-! ### Single instructions and steps -/

/-- 95_test_vectors.md S1. -/
theorem test_init : (result (exec (.init true true 2#16) (fresh .A))).map (fun s => (s.strip, s.a.period)) =
    some ({ inited := true, count := 2#16, brightness := 64#8, pix := [] }, 4#16) := by decide

/-- S3. -/
theorem test_init_overMaximum : result (exec (.init true true 3#16) (fresh .B)) = some (fresh .B) := by decide

/-- S11. -/
theorem test_clear : (result (exec (.clear true) (lit .A))).map (fun s => (readPix s 0, s.strip.brightness)) =
    some ({ r := 0#8, g := 0#8, b := 0#8 }, 255#8) := by decide

/-- S7: operands in the order r, g, b. -/
theorem test_setPixel : (result (exec (.setPixel true 0#16 1#8 2#8 3#8) (lit .A))).map (fun s => readPix s 0) =
    some { r := 1#8, g := 2#8, b := 3#8 } := by decide

/-- T6: `index = count`. -/
theorem test_setPixel_bound : result (exec (.setPixel true 1#16 9#8 9#8 9#8) (lit .A)) = some (lit .A) := by decide

/-- P2 step 6. -/
theorem test_getPixel : (result (exec (.getPixel true 0#16) (lit .A))).map (fun s => s.rsp) = some (some 0x12A5F0#24) := by
  decide

/-- S10. -/
theorem test_getPixel_far : (result (exec (.getPixel true 65535#16) (lit .A))).map (fun s => s.rsp) =
    some (some 0x000000#24) := by decide

/-- S16. -/
theorem test_setBrightness : (result (exec (.setBrightness true 77#8) (fresh .A))).map (fun s => s.strip.brightness) =
    some 77#8 := by decide

/-- S12: the value in the low byte. -/
theorem test_getBrightness : (result (exec (.getBrightness true) (lit .A))).map (fun s => s.rsp) =
    some (some 0x0000FF#24) := by decide

/-- S18: no transmission before `init`. -/
theorem test_show_uninitialised : result (exec (.showFrame true) (fresh .A)) = some (fresh .A) := by decide

/-- Section 5, `(0x12, 0xA5, 0xF0)` at full brightness: the bits `1010 0101 …` as long and short duties after a guard (R108). -/
theorem test_show_duties : (result (exec (.showFrame true) (lit .A))).map
    (fun s => (List.range 9).map (readFba s)) = some [0#16, 3#16, 1#16, 3#16, 1#16, 1#16, 3#16, 1#16, 3#16] := by decide

/-- R260: on an initialised Backend B block, one reset block of bytes. -/
theorem test_reset : (result (exec (.resetLine true) (lit .B))).map (fun s => (s.busy, s.b.bpos, s.b.blen)) =
    some (true, 0#16, 1#16) := by decide

/-- S19. -/
theorem test_reset_uninitialised : result (exec (.resetLine true) (fresh .B)) = some (fresh .B) := by decide

/-- R94. -/
theorem test_reserved : result (exec .reservedF (lit .A)) = some (lit .A) := by decide

/-- R104, R198. -/
theorem test_aBit1 : (result (exec .aBit1 (running .waitTc 1#16 1#16))).map
    (fun s => (s.a.ccrPre, s.a.dmaPtr, s.a.dmaRem, s.a.dmaTc)) = some (3#16, 26#16, 0#16, true) := by decide

/-- R105. -/
theorem test_aGuard : (result (exec .aGuard (running .waitTc 1#16 2#16))).map (fun s => (s.a.ccrPre, s.a.dmaTc)) =
    some (0#16, false) := by decide

/-- R114, R233: the earlier bit's code in the high nibble. -/
theorem test_bPair01 : (result (exec .bPair01 (sendingB 2#16 false 0#8))).map (fun s => (s.b.dr, s.b.drFull, s.b.bpos)) =
    some (0x8E#8, true, 3#16) := by decide

/-- R110, R232, with one tick a bit-time: the first bit is on the line, the rest shifted up. -/
theorem test_bBit1 : (result (exec .bBit1 { lit .B with b := { (fresh .B).b with sr := 0x08#8, srCnt := 8#4 } })).map
    (fun s => (s.dout, s.b.sr, s.b.srCnt)) = some (true, 0xD0#8, 7#4) := by decide

/-- T4 and section 3: rounding at the threshold. -/
theorem test_scale : scale 255#8 128#8 = 128#8 ∧ scale 1#8 1#8 = 0#8 ∧ scale 127#8 1#8 = 0#8 ∧ scale 128#8 1#8 = 1#8 ∧
    scale 165#8 128#8 = 83#8 ∧ scale 240#8 128#8 = 120#8 ∧ scale 255#8 255#8 = 255#8 := by decide

/-- Section 4: the wire word of `(0x12, 0xA5, 0xF0)` at brightness 128. -/
theorem test_wireWord : wireWord (scaled 128#8 { r := 0x12#8, g := 0xA5#8, b := 0xF0#8 }) = 0x530978#24 := by decide

/-- R96: the answer in the tick after, and gone in the one after that. -/
theorem test_step_response : (result (step (asked 0x480000000000#48 (lit .A)))).map (fun s => s.rsp) =
    some (some 0x12A5F0#24) ∧
    (result (step { lit .A with rsp := some 1#24 })).map (fun s => s.rsp) = some none := by decide

/-- R191, R202 (5): accepted and settling in the same tick. -/
theorem test_step_show : (result (step (asked 0x780000000000#48 (lit .A)))).map (fun s => (s.busy, s.a.tphase, s.a.settleCnt)) =
    some (true, .preSettle, 0#16) := by decide

/-- R71, R193: the reader is armed on the frame of the sampled `N`, whatever the strip holds by then. -/
theorem test_step_sampled : (result (step { phaseA .idle .preSettle 0#16 with
    strip := { (lit .A).strip with count := 2#16 } })).map (fun s => (s.a.dmaPtr, s.a.dmaRem)) = some (1#16, 25#16) := by decide

/-- R118 at the defaults: `H^19 L^41` is a 0 and `H^41 L^19` a 1 on Backend A, `H^15 L^45` and `H^45 L^15` on Backend B; a low window
is none. -/
theorem test_decodeWindows :
    decodeWindows 60 2 (List.replicate 19 true ++ List.replicate 41 false ++ List.replicate 41 true ++ List.replicate 19 false) =
      some [false, true] ∧
    decodeWindows 60 2 (List.replicate 45 true ++ List.replicate 15 false ++ List.replicate 15 true ++ List.replicate 45 false) =
      some [true, false] ∧
    decodeWindows 60 1 (List.replicate 60 false) = none := by decide

/-- R310: in the middle of a transmission. -/
theorem test_step_rst : (result (step { running .waitTc 0#16 5#16 with
    inputs := [{ rst := true, cmd := some 0x780000000000#48, stall := false }] })).map
    (fun s => (s.busy, s.strip.inited, s.a.pwmEn, s.dout)) = some (false, false, false, false) := rfl

/-- The word of a table row, placed, is what the next step runs (log entry 21). -/
theorem test_fetch_command : (result (step (State.withFetchWord (lit .A) 48 0x580000000007))).map
    (fun s => s.strip.brightness) = some 7#8 := by decide

theorem test_fetch_wireCodes :
    (result (step (State.withFetchWord State.reset 16 41))).map (fun s => (s.a.ccrPre, s.a.dmaTc)) = some (41#16, true) ∧
    (result (step (State.withFetchWord State.reset 8 0xE8))).map (fun s => (s.b.sr, s.b.srCnt)) = some (0xE8#8, 8#4) ∧
    (result (step (State.withFetchWord State.reset 8 0x8))).map (fun s => (s.dout, s.b.sbitCnt)) = some (true, 1) := by
  decide

/-! ### The invariant of the small states -/

theorem lit_strip (b : Backend) : StripOk (lit b) :=
  ⟨by cases b <;> decide, fun e => (by cases e), fun _ => (by cases b <;> decide)⟩

theorem lit_legal (b : Backend) : (lit b).cfg.legal = true := by cases b <;> decide

theorem lit_wf (b : Backend) : Memory.wf (lit b) = true := by cases b <;> decide

theorem ok_A (a : RegsA) (h : PhaseA (tiny .A) 26 a) : BlockInv { lit .A with busy := true, a := a } :=
  ⟨lit_legal .A, ⟨(lit_strip .A).bounded, (lit_strip .A).fresh, (lit_strip .A).bound⟩, lit_wf .A, fun _ => rfl, fun _ => rfl,
    fun _ => ⟨fun e => e.elim (fun e => (nomatch e)) (fun e => absurd rfl e), fun _ _ => h⟩, fun e => (nomatch e), fun _ => rfl⟩

theorem ok_B (r : RegsB) (h : SendingB (tiny .B) 1 r) (hs : SerializerOk (tiny .B) r) :
    BlockInv { lit .B with busy := true, b := r } :=
  ⟨lit_legal .B, ⟨(lit_strip .B).bounded, (lit_strip .B).fresh, (lit_strip .B).bound⟩, lit_wf .B, fun _ => rfl, fun _ => rfl,
    fun e => (nomatch e),
    fun _ => ⟨hs, fun e => e.elim (fun e => (nomatch e)) (fun e => absurd rfl e), fun _ _ => h⟩, fun _ => rfl⟩

theorem lit_ok (b : Backend) : BlockInv (lit b) :=
  ⟨lit_legal b, lit_strip b, lit_wf b, fun e => (nomatch e), fun e => absurd rfl e,
    fun _ => ⟨fun _ => ⟨rfl, rfl, ⟨rfl, rfl, rfl, rfl, rfl⟩⟩, fun e => (nomatch e)⟩,
    fun _ => ⟨⟨Nat.zero_le _, by cases b <;> decide⟩, fun _ => ⟨rfl, rfl, rfl⟩, fun e => (nomatch e)⟩, fun _ => rfl⟩

theorem asked_ok (w : CmdWord) (b : Backend) : BlockInv (asked w (lit b)) :=
  (lit_ok b).congr rfl rfl rfl rfl (lit_ok b).started (lit_ok b).waiting
    (fun e => ⟨((lit_ok b).onA e).rest, ((lit_ok b).onA e).run⟩)
    (fun e => ⟨((lit_ok b).onB e).serializer, ((lit_ok b).onB e).rest, ((lit_ok b).onB e).run⟩) (lit_ok b).sampled

theorem preSettle_ok (n : Half) : BlockInv (phaseA .idle .preSettle n) := ok_A _ (.preSettle rfl rfl ⟨rfl, rfl, rfl, rfl, rfl⟩)

theorem postSettle_ok (n : Half) : BlockInv (phaseA .transmitting .postSettle n) :=
  ok_A _ (.postSettle rfl rfl ⟨rfl, rfl, rfl, rfl, rfl⟩)

theorem resetSettle_ok (n : Half) : BlockInv (phaseA .idle .resetSettle n) :=
  ok_A _ (.resetSettle rfl rfl ⟨rfl, rfl, rfl, rfl, rfl⟩)

theorem armed_ok : BlockInv armed :=
  ok_A _ (.armed rfl rfl rfl rfl rfl rfl rfl ⟨rfl, by decide, by decide⟩)

theorem waitTc_ok : BlockInv (running .waitTc 0#16 24#16) ∧ BlockInv (running .waitTc 3#16 24#16) ∧
    BlockInv (running .waitTc 0#16 0#16) :=
  ⟨ok_A _ (.waitTc rfl rfl ⟨rfl, rfl, rfl, rfl, by decide⟩ ⟨rfl, by decide, by decide⟩),
    ok_A _ (.waitTc rfl rfl ⟨rfl, rfl, rfl, rfl, by decide⟩ ⟨rfl, by decide, by decide⟩),
    ok_A _ (.waitTc rfl rfl ⟨rfl, rfl, rfl, rfl, by decide⟩ ⟨rfl, by decide, by decide⟩)⟩

theorem waitUev_ok : BlockInv (running .waitUev 3#16 0#16) :=
  ok_A _ (.waitUev rfl rfl ⟨rfl, rfl, rfl, rfl, by decide⟩ ⟨rfl, by decide, by decide⟩ rfl)

/-- The same with the boundary flag seen. -/
def boundarySeen : State := { running .waitUev 1#16 0#16 with a := { (running .waitUev 1#16 0#16).a with uif := true } }

theorem boundarySeen_ok : BlockInv boundarySeen :=
  ok_A _ (.waitUev rfl rfl ⟨rfl, rfl, rfl, rfl, by decide⟩ ⟨rfl, by decide, by decide⟩ rfl)

theorem sendingB_at (p : Half) (h : p.toNat ≤ (16#16).toNat) (full : Bool) (y : Byte) : BlockInv (sendingB p full y) :=
  ok_B _ ⟨h, .inl rfl⟩ ⟨Nat.zero_le _, Nat.zero_lt_one⟩

theorem sendingB_ok (full : Bool) (y : Byte) : BlockInv (sendingB 0#16 full y) ∧ BlockInv (sendingB 1#16 full y) ∧
    BlockInv (sendingB 15#16 full y) ∧ BlockInv (sendingB 16#16 full y) :=
  ⟨sendingB_at _ (by decide) full y, sendingB_at _ (by decide) full y, sendingB_at _ (by decide) full y,
    sendingB_at _ (by decide) full y⟩

/-- A state none of whose listed inputs resets it is never reset. -/
theorem noRst_of {s : State} (h : ∀ p ∈ s.inputs, p.rst = false) (k : Nat) : noRst k s := by
  intro j _
  unfold inputAt
  rw [List.getD_eq_getElem?_getD]
  cases e : s.inputs[j]? with
  | none => rfl
  | some p => exact h p (List.mem_of_getElem? e)

/-- A state none of whose listed inputs stalls the reader, nor does it after them, is never stalled. -/
theorem noStall_of {s : State} (h : ∀ p ∈ s.inputs, p.stall = false) (hr : s.restStall = false) (k : Nat) : noStall k s := by
  intro j _
  unfold inputAt
  rw [List.getD_eq_getElem?_getD]
  cases e : s.inputs[j]? with
  | none => exact hr
  | some p => exact h p (List.mem_of_getElem? e)

/-! ### Witnesses: for each statement with hypotheses, a state and operands that meet them all -/

theorem witness_DecodeOfEncode : (tiny .A).legal = true ∧ (tiny .B).legal = true := by decide

theorem witness_CommandWordFields : (0x1C0003000000#48 &&& 0xF00000000000#48 = 0x100000000000#48) ∧
    (0x280000000000#48 &&& 0xF00000000000#48 = 0x200000000000#48) ∧
    (0x3FFFFFFFFFFF#48 &&& 0xF00000000000#48 = 0x300000000000#48) ∧
    (0x480000000000#48 &&& 0xF00000000000#48 = 0x400000000000#48) ∧
    (0x5000000000FF#48 &&& 0xF00000000000#48 = 0x500000000000#48) ∧
    (0x680000000000#48 &&& 0xF00000000000#48 = 0x600000000000#48) ∧
    (0x7800FFFFFFFF#48 &&& 0xF00000000000#48 = 0x700000000000#48) ∧
    (0x880000000000#48 &&& 0xF00000000000#48 = 0x800000000000#48) ∧
    (0x0FFFFFFFFFFF#48 &&& 0xF00000000000#48 = 0x000000000000#48) ∧
    (0x900000000001#48 &&& 0xF00000000000#48 = 0x900000000000#48) ∧
    (0xA00000000001#48 &&& 0xF00000000000#48 = 0xA00000000000#48) ∧
    (0xB00000000001#48 &&& 0xF00000000000#48 = 0xB00000000000#48) ∧
    (0xC00000000001#48 &&& 0xF00000000000#48 = 0xC00000000000#48) ∧
    (0xD00000000001#48 &&& 0xF00000000000#48 = 0xD00000000000#48) ∧
    (0xE00000000001#48 &&& 0xF00000000000#48 = 0xE00000000000#48) ∧
    (0xFFFFFFFFFFFF#48 &&& 0xF00000000000#48 = 0xF00000000000#48) := by decide

/-- Duties, nibbles and bytes beside the legal ones. -/
theorem witness_WireCodesExactly : (tiny .B).legal = true ∧
    (2#16 ≠ 0#16 ∧ (2#16).toNat ≠ (tiny .B).duty0Ticks ∧ (2#16).toNat ≠ (tiny .B).duty1Ticks) ∧
    (0b1100#4 ≠ (tiny .B).code0Nib ∧ 0b1100#4 ≠ (tiny .B).code1Nib) ∧
    (0x8F#8 ≠ 0#8 ∧ (0x8F#8).extractLsb' 0 4 ≠ (tiny .B).code0Nib ∧ (0x8F#8).extractLsb' 0 4 ≠ (tiny .B).code1Nib) := by
  decide

/-- Count at both ends of its range, and each way of failing at its boundary. -/
theorem witness_InitBindsTheStrip : (fresh .A).strip.inited = false ∧ (fresh .A).busy = false ∧
    Memory.wf (fresh .A) = true ∧ Memory.wf (fresh .B) = true ∧ 1 ≤ (1#16).toNat ∧ (2#16).toNat ≤ (fresh .A).cfg.maxLeds ∧
    (fresh .A).cfg.maxLeds < (3#16).toNat := by decide

theorem witness_SecondInit : (lit .A).strip.inited = true ∧ 1 ≤ (2#16).toNat ∧ (2#16).toNat ≤ (lit .A).cfg.maxLeds ∧
    (lit .A).cfg.reinit = .refuse ∧ { tiny .A with reinit := .ignore }.reinit = .ignore ∧
    { tiny .A with reinit := .rebind }.reinit = .rebind ∧ (lit .A).busy = false := by decide

theorem witness_ClearBlackens : Memory.wf (lit .A) = true ∧ (lit .A).strip.count.toNat ≤ (lit .A).cfg.maxLeds := by decide

/-- Index 0 is the last live one, index 1 the first beyond. -/
theorem witness_SetPixelWritesOne : Memory.wf (lit .A) = true ∧ (lit .A).strip.count.toNat ≤ (lit .A).cfg.maxLeds ∧
    (0#16).toNat < (lit .A).strip.count.toNat ∧ (lit .A).strip.count.toNat ≤ (1#16).toNat := by decide

theorem witness_GetPixelAnswers : (lit .B).strip.count.toNat ≤ (lit .B).cfg.maxLeds ∧
    (0#16).toNat < (lit .B).strip.count.toNat ∧ (lit .B).strip.count.toNat ≤ (1#16).toNat := by decide

theorem witness_ReservedDoNothing : (0xFFFFFFFFFFFF#48).extractLsb' 44 4 ∈
    [0x0#4, 0x9#4, 0xA#4, 0xB#4, 0xC#4, 0xD#4, 0xE#4, 0xF#4] ∧ (0x0FFFFFFFFFFF#48).extractLsb' 44 4 ∈
    [0x0#4, 0x9#4, 0xA#4, 0xB#4, 0xC#4, 0xD#4, 0xE#4, 0xF#4] := by decide

theorem witness_UninitialisedTable : StripOk (fresh .A) ∧ (fresh .A).strip.inited = false ∧ (fresh .A).busy = false :=
  ⟨⟨by decide, fun _ => rfl, fun e => (nomatch e)⟩, rfl, rfl⟩

theorem witness_OperationsInCommon : isStripOp (.getPixel true 0#16) = true ∧
    (result (exec (.getPixel true 0#16) (lit .A))).isSome = true ∧ isInit (.getPixel true 0#16) = false := by decide

/-- Between write and read: a `show`, another brightness, a write elsewhere. -/
theorem witness_PixelRoundTrip : StripOk (lit .A) ∧ Memory.wf (lit .A) = true ∧ (0#16).toNat < (lit .A).strip.count.toNat ∧
    (∀ c ∈ [Instr.setPixel true 1#16 9#8 9#8 9#8, .setBrightness true 3#8, .showFrame true], c.isCommand = true ∧
      (writesPixels c = false ∨ ∃ h j r' g' b', c = .setPixel h j r' g' b' ∧ j ≠ 0#16)) ∧
    (result (execAll [.setPixel true 0#16 1#8 2#8 3#8, .setPixel true 1#16 9#8 9#8 9#8, .setBrightness true 3#8, .showFrame true]
      (lit .A))).isSome = true := by
  refine ⟨lit_strip .A, by decide, by decide, ?_, by decide⟩
  intro c hc
  simp only [List.mem_cons, List.not_mem_nil, or_false] at hc
  rcases hc with rfl | rfl | rfl
  · exact ⟨rfl, .inr ⟨_, _, _, _, _, rfl, by decide⟩⟩
  · exact ⟨rfl, .inl rfl⟩
  · exact ⟨rfl, .inl rfl⟩

theorem witness_StripRules : (result (step (asked 0x780000000000#48 (lit .A)))).isSome = true ∧ StripOk (lit .A) ∧
    (nextInput (asked 0x780000000000#48 (lit .A))).rst = false ∧ (lit .A).strip.inited = true ∧ (lit .A).cfg.reinit ≠ .rebind ∧
    acceptedNow (asked 0x780000000000#48 (lit .A)) = some (.showFrame true) ∧ writesPixels (.showFrame true) = false :=
  ⟨by decide, lit_strip .A, by decide⟩

theorem witness_OnlyNamedOperationsWrite : (result (step (asked 0x280000000000#48 (lit .B)))).isSome = true ∧
    (nextInput (asked 0x280000000000#48 (lit .B))).rst = false ∧
    acceptedNow (asked 0x280000000000#48 (lit .B)) = some (.clear true) ∧ isInit (.clear true) = false ∧
    writesBrightness (.clear true) = false ∧ isShow (.clear true) = false := by decide

theorem witness_OverlapIsRefused : (phaseA .idle .preSettle 1#16).busy = true ∧
    1 ≤ (phaseA .idle .preSettle 1#16).strip.count.toNat ∧
    (phaseA .idle .preSettle 1#16).strip.count.toNat ≤ (phaseA .idle .preSettle 1#16).cfg.maxLeds ∧
    (phaseA .idle .preSettle 1#16).strip.inited = true ∧
    ({ fresh .A with busy := true } : State).strip.inited = false ∧ 1 ≤ (1#16).toNat ∧
    (2#16).toNat ≤ ({ fresh .A with busy := true } : State).cfg.maxLeds := by decide

/-- Count 0, and a count above the maximum, which no run reaches. -/
theorem witness_ShowValidation : (fresh .A).strip.count = 0#16 ∧
    ({ lit .A with strip := { (lit .A).strip with count := 3#16 } } : State).cfg.maxLeds < (3#16).toNat := by decide

theorem witness_ShowAccepted : (BlockInv (lit .A) ∧ (lit .A).busy = false ∧ 1 ≤ (lit .A).strip.count.toNat) ∧
    (BlockInv (lit .B) ∧ (lit .B).busy = false ∧ 1 ≤ (lit .B).strip.count.toNat) :=
  ⟨⟨lit_ok .A, by decide⟩, ⟨lit_ok .B, by decide⟩⟩

theorem witness_FrameLayoutA : BlockInv (lit .A) ∧ (lit .A).cfg.backend = .A ∧ (lit .A).busy = false ∧
    1 ≤ (lit .A).strip.count.toNat ∧ 0 < (lit .A).strip.count.toNat ∧ (0 < 24 ∧ 23 < 24) := ⟨lit_ok .A, by decide⟩

theorem witness_FrameLayoutB : BlockInv (lit .B) ∧ (lit .B).cfg.backend = .B ∧ (lit .B).busy = false ∧
    1 ≤ (lit .B).strip.count.toNat ∧ 0 < (lit .B).strip.count.toNat ∧ (0 < 12 ∧ 11 < 12) := ⟨lit_ok .B, by decide⟩

theorem witness_ScalingOfAPixel : (255#8 : Byte) = 255#8 ∧ (254#8 : Byte) ≠ 255#8 := by decide

theorem witness_WireOrder : 0 < 24 ∧ 23 < 24 := by decide

theorem witness_BackendsAgree : BlockInv (lit .A) ∧ BlockInv (lit .B) ∧ (lit .A).cfg.backend = .A ∧ (lit .B).cfg.backend = .B ∧
    (lit .A).busy = false ∧ (lit .B).busy = false ∧ 1 ≤ (lit .A).strip.count.toNat ∧ (lit .A).strip = (lit .B).strip ∧
    (result (exec (.showFrame true) (lit .A))).isSome = true ∧ (result (exec (.showFrame true) (lit .B))).isSome = true :=
  ⟨lit_ok .A, lit_ok .B, by decide⟩

/-- The initialised state at brightness 0. -/
def dark (b : Backend) : State := { lit b with strip := { (lit b).strip with brightness := 0#8 } }

theorem witness_ZeroBrightnessFrame : BlockInv (dark .A) ∧ BlockInv (dark .B) ∧ (dark .A).busy = false ∧ (dark .B).busy = false ∧
    1 ≤ (dark .A).strip.count.toNat ∧ (dark .A).strip.brightness = 0#8 ∧ (dark .B).strip.brightness = 0#8 :=
  ⟨(lit_ok .A).command rfl (.brightness 0#8), (lit_ok .B).command rfl (.brightness 0#8), by decide⟩

theorem witness_DiscriminatorReadsBothShapes : (Config.defaults .A).legal = true ∧
    2 * (Config.defaults .A).duty0Ticks < (Config.defaults .A).periodTicks ∧
    (Config.defaults .A).periodTicks ≤ 2 * (Config.defaults .A).duty1Ticks ∧
    (Config.defaults .B).legal = true ∧ (Config.defaults .B).code0Nib = 0b1000#4 ∧
    (discriminable (Config.defaults .A) = true ∧ (Config.defaults .A).backend = .A) ∧
    (discriminable (Config.defaults .B) = true ∧ (Config.defaults .B).backend = .B) := by decide

/-- Each clause: not armed; nothing left; elements left, the last of them too, inside the buffer. -/
theorem witness_ReaderStep : (lit .A).cfg.backend = .A ∧ (lit .A).a.dmaEn = false ∧
    (let s := { running .waitTc 0#16 0#16 with a := { (running .waitTc 0#16 0#16).a with dmaReq := true } };
      s.a.dmaEn = true ∧ s.a.dmaReq = true ∧ s.a.dmaRem = 0#16) ∧
    (let s := { running .waitTc 0#16 1#16 with a := { (running .waitTc 0#16 1#16).a with dmaReq := true } };
      s.a.dmaEn = true ∧ s.a.dmaReq = true ∧ s.a.dmaRem ≠ 0#16 ∧ s.a.dmaPtr.toNat < s.cfg.capA) := by decide

theorem witness_DutyLatching : (running .waitTc 0#16 24#16).cfg.backend = .A ∧
    (nextInput (running .waitTc 0#16 24#16)).rst = false ∧ acceptedNow (running .waitTc 0#16 24#16) = none ∧
    (result (step (running .waitTc 0#16 24#16))).isSome = true ∧
    (sequencer (beginTick (running .waitTc 0#16 24#16))).a.pwmEn = true := by decide

/-- At a boundary and at the last tick of a period. -/
theorem witness_GeneratorTick : (BlockInv (running .waitTc 0#16 24#16) ∧ BlockInv (running .waitTc 3#16 24#16)) ∧
    (running .waitTc 0#16 24#16).cfg.backend = .A ∧ (running .waitTc 0#16 24#16).busy = true ∧
    (running .waitTc 0#16 24#16).buildCnt = 0 ∧ (running .waitTc 0#16 24#16).a.tphase = .waitTc ∧
    (running .waitTc 0#16 24#16).a.dmaTc = false ∧ (nextInput (running .waitTc 0#16 24#16)).rst = false :=
  ⟨⟨waitTc_ok.1, waitTc_ok.2.1⟩, by decide⟩

theorem witness_SettleTick : (BlockInv (phaseA .idle .preSettle 1#16) ∧ BlockInv (phaseA .transmitting .postSettle 1#16) ∧
    BlockInv (phaseA .idle .resetSettle 1#16)) ∧ (phaseA .idle .preSettle 1#16).cfg.backend = .A ∧
    (phaseA .idle .preSettle 1#16).busy = true ∧ (phaseA .idle .preSettle 1#16).buildCnt = 0 ∧
    (phaseA .idle .preSettle 1#16).a.settleCnt ≠ 0#16 ∧ (nextInput (phaseA .idle .preSettle 1#16)).rst = false :=
  ⟨⟨preSettle_ok _, postSettle_ok _, resetSettle_ok _⟩, by decide⟩

theorem witness_ArmTick : BlockInv (phaseA .idle .preSettle 0#16) ∧ (phaseA .idle .preSettle 0#16).cfg.backend = .A ∧
    (phaseA .idle .preSettle 0#16).busy = true ∧ (phaseA .idle .preSettle 0#16).buildCnt = 0 ∧
    (phaseA .idle .preSettle 0#16).a.tphase = .preSettle ∧ (phaseA .idle .preSettle 0#16).a.settleCnt = 0#16 ∧
    (nextInput (phaseA .idle .preSettle 0#16)).rst = false ∧ (nextInput (phaseA .idle .preSettle 0#16)).stall = false :=
  ⟨preSettle_ok _, by decide⟩

theorem witness_StartTick : BlockInv armed ∧ armed.cfg.backend = .A ∧ armed.busy = true ∧ armed.buildCnt = 0 ∧
    armed.a.tstate = .armed ∧ armed.a.dmaRem ≠ 0#16 ∧ (nextInput armed).rst = false ∧ (nextInput armed).stall = false :=
  ⟨armed_ok, by decide⟩

/-- Each clause: `dma_tc` seen; waiting for the boundary; the boundary seen; the exit settle over. -/
theorem witness_CompletionTicks :
    (BlockInv (running .waitTc 0#16 0#16) ∧ (running .waitTc 0#16 0#16).a.dmaTc = true) ∧
    (BlockInv (running .waitUev 3#16 0#16) ∧ (running .waitUev 3#16 0#16).a.uif = false) ∧
    (BlockInv boundarySeen ∧ boundarySeen.a.tphase = .waitUev ∧ boundarySeen.a.uif = true) ∧
    (BlockInv (phaseA .transmitting .postSettle 0#16) ∧ (phaseA .transmitting .postSettle 0#16).a.settleCnt = 0#16 ∧
      (nextInput (phaseA .transmitting .postSettle 0#16)).cmd = none) :=
  ⟨⟨waitTc_ok.2.2, rfl⟩, ⟨waitUev_ok, rfl⟩, ⟨boundarySeen_ok, rfl, rfl⟩, ⟨postSettle_ok _, rfl, rfl⟩⟩

/-- The first and the last boundary of a frame of one LED. -/
theorem witness_SlotTimeline : BlockInv (phaseA .idle .preSettle 0#16) ∧ (phaseA .idle .preSettle 0#16).cfg.backend = .A ∧
    (phaseA .idle .preSettle 0#16).busy = true ∧ (phaseA .idle .preSettle 0#16).buildCnt = 0 ∧
    (phaseA .idle .preSettle 0#16).a.tphase = .preSettle ∧ (phaseA .idle .preSettle 0#16).a.settleCnt = 0#16 ∧
    (0 ≤ Config.lenA 1 - 1 ∧ 25 ≤ Config.lenA 1 - 1) ∧ (∀ k, noRst k (phaseA .idle .preSettle 0#16)) ∧
    ∀ k, noStall k (phaseA .idle .preSettle 0#16) :=
  ⟨preSettle_ok _, rfl, rfl, rfl, rfl, rfl, by decide, fun k => noRst_of (fun _ h => absurd h List.not_mem_nil) k,
    fun k => noStall_of (fun _ h => absurd h List.not_mem_nil) rfl k⟩

theorem asked_noRst (w : CmdWord) (b : Backend) (k : Nat) : noRst k (asked w (lit b)) :=
  noRst_of (fun p h => by simp only [asked, List.mem_singleton] at h; rw [h]) k

theorem asked_noStall (w : CmdWord) (b : Backend) (k : Nat) : noStall k (asked w (lit b)) :=
  noStall_of (fun p h => by simp only [asked, List.mem_singleton] at h; rw [h]) rfl k

theorem witness_ShowOnTheLineA : BlockInv (asked 0x780000000000#48 (lit .A)) ∧
    (lit .A).cfg.backend = .A ∧ readyNow (asked 0x780000000000#48 (lit .A)) = true ∧
    (nextInput (asked 0x780000000000#48 (lit .A))).cmd = some 0x780000000000#48 ∧
    decodeCmd 0x780000000000#48 = .showFrame true ∧ 1 ≤ (lit .A).strip.count.toNat ∧ discriminable (lit .A).cfg = true ∧
    (∀ k, noRst k (asked 0x780000000000#48 (lit .A))) ∧ ∀ k, noStall k (asked 0x780000000000#48 (lit .A)) :=
  ⟨asked_ok _ .A, rfl, by decide, rfl, by decide, by decide, by decide, asked_noRst _ .A, asked_noStall _ .A⟩

/-- At a boundary with the reader stalled for ever, two periods long. -/
theorem witness_StallHangs : BlockInv { running .waitTc 0#16 24#16 with restStall := true } ∧
    (running .waitTc 0#16 24#16).a.tphase = .waitTc ∧ (running .waitTc 0#16 24#16).busy = true ∧
    (running .waitTc 0#16 24#16).buildCnt = 0 ∧ (running .waitTc 0#16 24#16).a.dmaRem ≠ 0#16 ∧
    (running .waitTc 0#16 24#16).a.cnt = 0#16 ∧ 8 = 2 * (running .waitTc 0#16 24#16).cfg.periodTicks ∧
    noRst 8 { running .waitTc 0#16 24#16 with restStall := true } ∧
    allStall 8 { running .waitTc 0#16 24#16 with restStall := true } :=
  ⟨waitTc_ok.1.congr rfl rfl rfl rfl (fun _ => rfl) (fun _ => rfl)
      (fun e => ⟨(waitTc_ok.1.onA e).rest, (waitTc_ok.1.onA e).run⟩) (fun e => (nomatch e)) (fun _ => rfl),
    rfl, rfl, rfl, by decide, rfl, rfl, noRst_of (fun _ h => absurd h List.not_mem_nil) 8, fun _ _ => rfl⟩

/-- A step in which `tstate` changes: the start of the generator. -/
theorem witness_StateMachineOrder : BlockInv armed ∧ armed.cfg.backend = .A ∧ (nextInput armed).rst = false ∧
    (result (step armed)).map (fun t => t.a.tstate) = some .transmitting ∧ armed.a.tstate = .armed :=
  ⟨armed_ok, by decide⟩

theorem witness_SerializerStep : (sendingB 1#16 true 0xE8#8).cfg.backend = .B ∧ (lit .B).cfg.backend = .B := by decide

/-- The first position of each part of the stream, and its end. -/
theorem witness_ByteLoopStep : (BlockInv (sendingB 0#16 false 0#8) ∧ BlockInv (sendingB 1#16 false 0#8) ∧
    BlockInv (sendingB 15#16 false 0#8) ∧ BlockInv (sendingB 16#16 false 0#8)) ∧ (sendingB 0#16 false 0#8).cfg.backend = .B ∧
    (sendingB 0#16 false 0#8).busy = true ∧ (sendingB 0#16 false 0#8).buildCnt = 0 ∧
    (sendingB 0#16 false 0#8).b.blen.toNat =
      2 * (sendingB 0#16 false 0#8).cfg.resetBytes + Config.lenB (sendingB 0#16 false 0#8).strip.count.toNat ∧
    (sendingB 15#16 false 0#8).b.bpos ≠ (sendingB 15#16 false 0#8).b.blen ∧
    (sendingB 16#16 false 0#8).b.bpos = (sendingB 16#16 false 0#8).b.blen :=
  ⟨sendingB_ok _ _, by decide⟩

theorem witness_ByteOnTheLine : BlockInv (sendingB 1#16 true 0xE8#8) ∧ (sendingB 1#16 true 0xE8#8).cfg.backend = .B ∧
    (sendingB 1#16 true 0xE8#8).busy = true ∧ (sendingB 1#16 true 0xE8#8).buildCnt = 0 ∧
    (sendingB 1#16 true 0xE8#8).b.srCnt = 0#4 ∧ (sendingB 1#16 true 0xE8#8).b.drFull = true ∧
    noRst 8 (sendingB 1#16 true 0xE8#8) :=
  ⟨(sendingB_ok _ _).2.1, rfl, rfl, rfl, rfl, rfl, noRst_of (fun _ h => absurd h List.not_mem_nil) 8⟩

theorem witness_ShowOnTheLineB : BlockInv (asked 0x780000000000#48 (lit .B)) ∧
    (lit .B).cfg.backend = .B ∧ readyNow (asked 0x780000000000#48 (lit .B)) = true ∧
    (nextInput (asked 0x780000000000#48 (lit .B))).cmd = some 0x780000000000#48 ∧
    decodeCmd 0x780000000000#48 = .showFrame true ∧ 1 ≤ (lit .B).strip.count.toNat ∧ discriminable (lit .B).cfg = true ∧
    ∀ k, noRst k (asked 0x780000000000#48 (lit .B)) :=
  ⟨asked_ok _ .B, rfl, by decide, rfl, by decide, by decide, by decide, asked_noRst _ .B⟩

theorem witness_ResetAccepted : (fresh .A).strip.inited = false ∧ (lit .A).strip.inited = true ∧ (lit .A).busy = false ∧
    (lit .B).strip.inited = true ∧ (lit .B).busy = false := by decide

theorem witness_ResetOnTheLineA : BlockInv (asked 0x880000000000#48 (lit .A)) ∧
    readyNow (asked 0x880000000000#48 (lit .A)) = true ∧
    (nextInput (asked 0x880000000000#48 (lit .A))).cmd = some 0x880000000000#48 ∧
    decodeCmd 0x880000000000#48 = .resetLine true ∧ (lit .A).strip.inited = true ∧
    ∀ k, noRst k (asked 0x880000000000#48 (lit .A)) :=
  ⟨asked_ok _ .A, by decide, rfl, by decide, rfl, asked_noRst _ .A⟩

theorem witness_ResetOnTheLineB : BlockInv (asked 0x880000000000#48 (lit .B)) ∧
    readyNow (asked 0x880000000000#48 (lit .B)) = true ∧
    (nextInput (asked 0x880000000000#48 (lit .B))).cmd = some 0x880000000000#48 ∧
    decodeCmd 0x880000000000#48 = .resetLine true ∧ (lit .B).strip.inited = true ∧
    ∀ k, noRst k (asked 0x880000000000#48 (lit .B)) :=
  ⟨asked_ok _ .B, by decide, rfl, by decide, rfl, asked_noRst _ .B⟩

theorem witness_DutyCodesMove : (running .waitTc 0#16 1#16).cfg.backend = .A := by decide

theorem witness_ByteCodesAreWritten : (sendingB 15#16 false 0#8).cfg.backend = .B := by decide

/-- Both windows of a byte. -/
theorem witness_NibbleCodesArePlayed : (tiny .B).legal = true ∧
    (let s := { lit .B with b := { (fresh .B).b with sr := 0xE8#8, srCnt := 8#4 } };
      s.cfg.backend = .B ∧ s.b.srCnt = 8#4 ∧ s.b.sbitCnt = 0) ∧
    (let s := { lit .B with b := { (fresh .B).b with sr := 0x80#8, srCnt := 4#4 } };
      s.cfg.backend = .B ∧ s.b.srCnt = 4#4 ∧ s.b.sbitCnt = 0) := by decide

theorem witness_AbsentBackendIsRefused : Instr.wellFormed (lit .B).cfg .aGuard = false ∧
    Instr.wellFormed (lit .A).cfg .bBit0 = false := by decide

theorem witness_StepRunsTheCommand : acceptedNow (asked 0x280000000000#48 (lit .A)) = some (.clear true) := by decide

/-- The reader on a duty, the byte loop on a byte of the frame and on one of the first and last reset block, the serializer on the first
nibble of a byte. -/
theorem witness_StepRunsTheWireCode :
    (let s := { running .waitTc 0#16 24#16 with fba := [(2, 3#16)] };
      let u := generator (sequencer (beginTick s));
      (nextInput s).rst = false ∧ acceptedNow s = none ∧ s.cfg.backend = .A ∧ u.a.dmaEn = true ∧ u.a.dmaReq = true ∧
        u.a.dmaRem ≠ 0#16 ∧ (nextInput s).stall = false ∧ u.a.dmaPtr.toNat < u.cfg.capA ∧
        (decodeDuty u.cfg (readFba u u.a.dmaPtr.toNat)).toOption = some .aBit1) ∧
    (let s := { sendingB 2#16 false 0#8 with fbb := [(1, 0xE8#8)] };
      let u := sequencer (beginTick s);
      (nextInput s).rst = false ∧ acceptedNow s = none ∧ s.cfg.backend = .B ∧ sending u = true ∧ streamIndex u = some 1 ∧
        1 < u.cfg.capB ∧ (decodeByte u.cfg (readFbb u 1)).toOption = some .bPair10) ∧
    ((let s := sendingB 0#16 false 0#8; let u := sequencer (beginTick s);
      (nextInput s).rst = false ∧ acceptedNow s = none ∧ sending u = true ∧ streamIndex u = none) ∧
      (let s := sendingB 15#16 false 0#8; let u := sequencer (beginTick s);
        (nextInput s).rst = false ∧ acceptedNow s = none ∧ sending u = true ∧ streamIndex u = none)) ∧
    (let s := sendingB 16#16 true 0xE8#8;
      (nextInput s).rst = false ∧ acceptedNow s = none ∧
        (result (byteLoop (sequencer (beginTick s)))).map (fun v => (windowStart (loadB v).b,
          (decodeNibble v.cfg ((loadB v).b.sr.extractLsb' 4 4)).toOption)) = some (true, some .bBit1)) := by decide

theorem witness_NoCancellation :
    readyNow { phaseA .idle .preSettle 1#16 with inputs := [{ rst := false, cmd := some 0x280000000000#48, stall := false }] } = false ∧
    (result (step (phaseA .idle .preSettle 1#16))).isSome = true ∧ (nextInput (phaseA .idle .preSettle 1#16)).rst = false ∧
    readyNow (phaseA .idle .preSettle 1#16) = false ∧ readyNow (asked 0x780000000000#48 (lit .A)) = true ∧
    (result (step (asked 0x780000000000#48 (lit .A)))).map (fun t => t.busy) = some true := by decide

theorem witness_ResponseChannel : StripOk (asked 0x480000000000#48 (lit .A)) ∧
    (result (step (asked 0x480000000000#48 (lit .A)))).isSome = true ∧
    acceptedNow (asked 0x480000000000#48 (lit .A)) = some (.getPixel true 0#16) ∧
    (result (step (asked 0x680000000000#48 (lit .A)))).isSome = true ∧
    acceptedNow (asked 0x680000000000#48 (lit .A)) = some (.getBrightness true) ∧
    (result (step (lit .A))).isSome = true ∧ acceptedNow (lit .A) = none :=
  ⟨⟨by decide, fun e => (nomatch e), fun _ => (by decide)⟩, by decide⟩

theorem witness_HardwareReset :
    (nextInput { lit .A with inputs := [{ rst := true, cmd := none, stall := false }] }).rst = true := by decide

/-- The first and the last index of each memory. -/
theorem witness_ResetValues : (0 < (tiny .A).maxLeds ∧ 1 < (tiny .A).maxLeds) ∧ (0 < (tiny .A).capA ∧ 49 < (tiny .A).capA) ∧
    (0 < (tiny .B).capB ∧ 25 < (tiny .B).capB) := by decide

theorem witness_InvariantAfterReset : (tiny .A).legal = true ∧ (tiny .B).legal = true := by decide

theorem witness_InvariantKept : BlockInv (running .waitTc 0#16 24#16) ∧ BlockInv (sendingB 1#16 true 0xE8#8) ∧
    (result (step (running .waitTc 0#16 24#16))).isSome = true ∧ (result (step (sendingB 1#16 true 0xE8#8))).isSome = true :=
  ⟨waitTc_ok.1, (sendingB_ok _ _).2.1, by decide⟩

theorem witness_StepNeverFaults : BlockInv (asked 0x1C0002000000#48 (lit .A)) ∧ BlockInv armed := ⟨asked_ok _ .A, armed_ok⟩

theorem witness_ParametersNeverChange : (result (exec .aBit0 (running .waitTc 0#16 24#16))).isSome = true ∧
    (result (step (running .waitTc 0#16 24#16))).isSome = true := by decide

theorem witness_LineHighOnlyWhileATransportRuns : BlockInv (running .waitTc 0#16 24#16) ∧
    (result (step (running .waitTc 0#16 24#16))).map (fun t => t.dout) = some true ∧
    BlockInv (sendingB 1#16 true 0xE8#8) ∧ (result (step (sendingB 1#16 true 0xE8#8))).map (fun t => t.dout) = some true :=
  ⟨waitTc_ok.1, by decide, (sendingB_ok _ _).2.1, by decide⟩

end Sys2Proof.Tests
end

section
/-! PROOFS. The scope of the model (00_scope.md): the command port in a tick. -/

namespace Sys2Proof.Machine

/-- The port is ready in a tick exactly when the sequencer leaves the block not busy (00_scope.md R15, 10_state.md R28). -/
theorem readyNow_iff_not_busy (s : State) : readyNow s = true ↔ (sequencer (beginTick s)).busy = false := by
  simp [readyNow, cmdReady]

/-- What it takes for a command to be accepted in a tick (00_scope.md R15). -/
theorem acceptedNow_eq_some_iff {s : State} {i : Instr} : acceptedNow s = some i ↔
    (nextInput s).rst = false ∧ readyNow s = true ∧ ∃ w, (nextInput s).cmd = some w ∧ decodeCmd w = i := by
  unfold acceptedNow
  cases (nextInput s).rst <;> cases readyNow s <;> simp

/-- Settles O50: an accepted command is the decoded word of the port, presented to a ready block that is not being reset, and such a tick
is the one `tick_cmd` describes. -/
theorem stepRunsTheCommand : Obligations.StepRunsTheCommand := by
  intro s i accepted
  obtain ⟨noReset, ready, w, presented, rfl⟩ := acceptedNow_eq_some_iff.mp accepted
  exact tick_cmd noReset presented ((readyNow_iff_not_busy s).mp ready)

end Sys2Proof.Machine
end

section
/-! PROOFS. The state of the block (10_state.md): what every step keeps, what only named operations write, and the state after reset. -/

namespace Sys2Proof.Machine

variable {s t : State}

/-! ### A step, taken apart -/

/-- A step in two shapes: hardware reset, or the agents at work on what a command made of the sequencer's state. A tick that accepts none
is the one whose command does nothing. -/
theorem step_reset_or_agents (e : step s = .next t) :
    t = hardwareReset (beginTick s) ∨
    ∃ u, (u = sequencer (beginTick s) ∨ (sequencer (beginTick s)).busy = false) ∧
      CommandEffect (sequencer (beginTick s)) u ∧ agents (nextInput s).stall u = .next t := by
  rcases step_cases e with ⟨-, reset⟩ | ⟨-, -, acts⟩ | ⟨-, idle, -, u, -, -, -, effect, acts⟩
  · exact .inl reset
  · exact .inr ⟨_, .inl rfl, .same, acts⟩
  · exact .inr ⟨u, .inr idle, effect, acts⟩

/-- Every agent of a tick keeps the invariant, so the state the transport's agents act on meets it too. -/
theorem step_reset_or_agents_of_inv (h : BlockInv s) (e : step s = .next t) :
    t = hardwareReset (beginTick s) ∨
    ∃ u, BlockInv u ∧ CommandEffect (sequencer (beginTick s)) u ∧ agents (nextInput s).stall u = .next t := by
  rcases step_reset_or_agents e with reset | ⟨u, rfl | idle, effect, acts⟩
  · exact .inl reset
  · exact .inr ⟨_, h.beginTick.sequencer, effect, acts⟩
  · exact .inr ⟨u, h.beginTick.sequencer.command idle effect, effect, acts⟩

theorem inv_of_agents_next (h : BlockInv s) {stall : Bool} (e : agents stall s = .next t) : BlockInv t := by
  obtain ⟨u, e', hu⟩ := h.agents stall
  rw [e] at e'
  cases e'
  exact hu

/-- Settles O57: hardware reset establishes the invariant, and the sequencer, an accepted command and the agents each keep it. -/
theorem invariantKept : Obligations.InvariantKept := by
  intro s t h e
  rcases step_reset_or_agents_of_inv h e with rfl | ⟨u, hu, -, acts⟩
  · exact BlockInv.hardwareReset h.legal
  · exact inv_of_agents_next hu acts

/-! ### The strip's own invariant (R25) -/

theorem StripOk.congr (h : StripOk s) (hc : t.cfg = s.cfg) (hi : t.strip.inited = s.strip.inited)
    (hn : t.strip.count = s.strip.count) : StripOk t :=
  ⟨by rw [hc, hn]; exact h.bounded, by rw [hi, hn]; exact h.fresh, by rw [hi, hn]; exact h.bound⟩

/-- R25 right after reset, of parameters legal or not. -/
theorem stripOk_resetWith (c : Config) (u : ResetDraw) : StripOk (State.resetWith c u) :=
  ⟨Nat.zero_le _, fun _ => rfl, fun e => nomatch e⟩

@[simp] theorem bindStrip_inited (n : Half) (s : State) : (bindStrip n s).strip.inited = true := by simp [bindStrip]

@[simp] theorem bindStrip_count (n : Half) (s : State) : (bindStrip n s).strip.count = n := by simp [bindStrip]

/-- A command keeps R25: only `init` writes what it speaks of, and only to a count from 1 to `MAX_LEDS`. -/
theorem StripOk.command (h : StripOk s) (e : CommandEffect s t) : StripOk t := by
  cases e with
  | bind n pos bound idle =>
    have nonzero : n.toNat ≠ 0 := fun e => pos (BitVec.eq_of_toNat_eq e)
    exact ⟨by simpa using bound, by simp, fun _ => by rw [bindStrip_count]; omega⟩
  | same | response v | clear | pixel i p live | brightness v => exact h.congr rfl rfl rfl
  | showing live idle => exact h.congr (by simp) (by simp) (by simp)
  | latching inited idle => exact h.congr (by simp) (by simp) (by simp)

theorem StripOk.step (h : StripOk s) (e : step s = .next t) : StripOk t := by
  rcases step_reset_or_agents e with rfl | ⟨u, -, effect, acts⟩
  · exact (stripOk_resetWith s.cfg (Config.freeDraw (beginTick s).ticks)).congr rfl rfl rfl
  · have hu : StripOk u := (h.congr (by simp) (by simp) (by simp) : StripOk (sequencer (beginTick s))).command effect
    rw [agents_next acts]
    exact hu.congr rfl rfl rfl

/-! ### Who writes the strip state and the frame buffers (R21 to R24, R29 to R31) -/

/-- What stays as it was between two states when the accepted command, if any, is not one of those that write it. -/
structure WrittenBy (accepted : Option Instr) (s t : State) : Prop where
  binding : (∀ i, accepted = some i → isInit i = false) →
    t.strip.inited = s.strip.inited ∧ t.strip.count = s.strip.count
  fixed : s.strip.inited = true → s.cfg.reinit ≠ .rebind → t.strip.count = s.strip.count
  pixels : (∀ i, accepted = some i → writesPixels i = false) → t.strip.pix = s.strip.pix
  brightness : (∀ i, accepted = some i → writesBrightness i = false) → t.strip.brightness = s.strip.brightness
  buffers : (∀ i, accepted = some i → isShow i = false) → t.fba = s.fba ∧ t.fbb = s.fbb

/-- Where the strip state is kept, the frame buffers alone are in question. -/
theorem WrittenBy.of_strip_eq {o : Option Instr} (hs : t.strip = s.strip)
    (hf : (∀ i, o = some i → isShow i = false) → t.fba = s.fba ∧ t.fbb = s.fbb) : WrittenBy o s t :=
  ⟨fun _ => by simp [hs], fun _ _ => by rw [hs], fun _ => by rw [hs], fun _ => by rw [hs], hf⟩

/-- Only the strip state, the frame buffers and the parameters matter. -/
theorem WrittenBy.congr {o : Option Instr} {s' t' : State} (h : WrittenBy o s t) (hc : s'.cfg = s.cfg)
    (hs : s'.strip = s.strip) (hsa : s'.fba = s.fba) (hsb : s'.fbb = s.fbb) (ht : t'.strip = t.strip)
    (hta : t'.fba = t.fba) (htb : t'.fbb = t.fbb) : WrittenBy o s' t' := by
  constructor <;> simp only [hc, hs, hsa, hsb, ht, hta, htb]
  exacts [h.binding, h.fixed, h.pixels, h.brightness, h.buffers]

/-- An `init` that answers a next state writes nothing, or binds a strip that is free or that `REINIT = rebind` lets it rebind (R131,
R138). -/
theorem execInit_next {h st : Bool} {n : Half} (e : execInit h st n s = .next t) :
    t = s ∨ t = bindStrip n s ∧ (s.strip.inited = true → s.cfg.reinit = .rebind) := by
  unfold execInit at e
  split at e
  · split at e
    · unfold secondInit at e
      split at e
      · cases e
      · cases e; exact .inl rfl
      · next rebind =>
        split at e <;> cases e
        exact .inr ⟨rfl, fun _ => rebind⟩
    · next free =>
      split at e <;> cases e
      exact .inr ⟨rfl, fun inited => absurd inited free⟩
  · cases e; exact .inl rfl

/-- Say once, command by command, which of the strip's registers and of the frame buffers it writes. -/
theorem exec_writtenBy {i : Instr} (hi : i.isCommand = true) (e : exec i s = .next t) : WrittenBy (some i) s t := by
  have same : WrittenBy (some i) s s := .of_strip_eq rfl fun _ => ⟨rfl, rfl⟩
  cases i with
  | init h st n =>
    rcases execInit_next e with rfl | ⟨rfl, rebinds⟩
    · exact same
    · exact ⟨fun k => (nomatch k _ rfl), fun inited fixed => absurd (rebinds inited) fixed, fun k => (nomatch k _ rfl),
        fun k => (nomatch k _ rfl), fun _ => ⟨by simp, by simp⟩⟩
  | clear h =>
    simp only [exec, execClear, noop] at e
    split at e <;> cases e
    · exact ⟨fun _ => ⟨rfl, rfl⟩, fun _ _ => rfl, fun k => (nomatch k _ rfl), fun _ => rfl, fun _ => ⟨rfl, rfl⟩⟩
    · exact same
  | setPixel h i r g b =>
    simp only [exec, execSetPixel, noop] at e
    split at e <;> cases e
    · exact ⟨fun _ => ⟨rfl, rfl⟩, fun _ _ => rfl, fun k => (nomatch k _ rfl), fun _ => rfl, fun _ => ⟨rfl, rfl⟩⟩
    · exact same
  | getPixel h i =>
    simp only [exec, execGetPixel, respond] at e
    split at e <;> cases e <;> exact .of_strip_eq rfl fun _ => ⟨rfl, rfl⟩
  | setBrightness h v =>
    simp only [exec, execSetBrightness, noop] at e
    split at e <;> cases e
    · exact ⟨fun _ => ⟨rfl, rfl⟩, fun _ _ => rfl, fun _ => rfl, fun k => (nomatch k _ rfl), fun _ => ⟨rfl, rfl⟩⟩
    · exact same
  | getBrightness h =>
    simp only [exec, execGetBrightness, respond] at e
    split at e <;> cases e <;> exact .of_strip_eq rfl fun _ => ⟨rfl, rfl⟩
  | showFrame h =>
    simp only [exec, execShow, noop] at e
    (repeat' split at e) <;> cases e
    · exact .of_strip_eq (by simp) fun k => (nomatch k _ rfl)
    · exact same
  | resetLine h =>
    simp only [exec, execReset, noop] at e
    (repeat' split at e) <;> cases e
    · exact .of_strip_eq (by simp) fun _ => ⟨by simp, by simp⟩
    · exact same
  | reserved0 | reserved9 | reservedA | reservedB | reservedC | reservedD | reservedE | reservedF => cases e; exact same
  | aGuard | aBit0 | aBit1 | bBit0 | bBit1 | bPair00 | bPair01 | bPair10 | bPair11 | bGuard => cases hi

/-- Of a step without hardware reset, only the accepted command writes the strip state and the frame buffers. -/
theorem step_writtenBy (e : step s = .next t) (noReset : (nextInput s).rst = false) :
    WrittenBy (acceptedNow s) s t := by
  rcases step_cases e with ⟨reset, -⟩ | ⟨-, -, acts⟩ | ⟨-, -, i, u, accepted, command, runs, -, acts⟩
  · rw [noReset] at reset; cases reset
  · rw [agents_next acts]
    exact .of_strip_eq (by simp) fun _ => ⟨by simp, by simp⟩
  · rw [accepted, agents_next acts]
    exact (exec_writtenBy command runs).congr (by simp) (by simp) (by simp) (by simp) rfl rfl rfl

/-- Settles O15: R25 holds after reset and is kept by every step, and `WrittenBy` says who may change the count and a pixel. -/
theorem stripRules : Obligations.StripRules := by
  refine ⟨stripOk_resetWith, fun s t e => ⟨fun h => h.step e, fun noReset => (step_writtenBy e noReset).fixed,
    fun noReset others k => ?_⟩⟩
  rw [readPix, (step_writtenBy e noReset).pixels others, readPix]

/-- Settles O16, each part a field of `WrittenBy` for the command the step accepts. -/
theorem onlyNamedOperationsWrite : Obligations.OnlyNamedOperationsWrite := by
  intro s t e noReset
  have w := step_writtenBy e noReset
  refine ⟨w.binding, w.brightness, fun others => ?_⟩
  obtain ⟨hA, hB⟩ := w.buffers others
  exact ⟨fun k => by rw [readFba, hA, readFba], fun k => by rw [readFbb, hB, readFbb]⟩

/-! ### The parameters (R51), and the codes of a backend the block has not -/

theorem CommandEffect.cfg_eq (e : CommandEffect s t) : t.cfg = s.cfg := by
  cases e with
  | same | response v | clear | pixel i p live | brightness v => rfl
  | bind n => exact bindStrip_cfg s n
  | showing => exact beginShow_cfg s
  | latching => exact beginReset_cfg s

/-- A Backend A code is refused on another block, and on its own does what it does. -/
theorem onA_eq (f : State → State) (s : State) :
    onA f s = if s.cfg.backend = .A then .next (f s) else .refused .absentBackend := by
  unfold onA
  cases s.cfg.backend <;> rfl

theorem onB_eq (f : State → State) (s : State) :
    onB f s = if s.cfg.backend = .B then .next (f s) else .refused .absentBackend := by
  unfold onB
  cases s.cfg.backend <;> rfl

theorem onA_cfg {f : State → State} (hf : (f s).cfg = s.cfg) (e : onA f s = .next t) : t.cfg = s.cfg := by
  rw [onA_eq] at e
  split at e <;> cases e
  exact hf

theorem onB_cfg {f : State → State} (hf : (f s).cfg = s.cfg) (e : onB f s = .next t) : t.cfg = s.cfg := by
  rw [onB_eq] at e
  split at e <;> cases e
  exact hf

theorem exec_cfg {i : Instr} (e : exec i s = .next t) : t.cfg = s.cfg := by
  by_cases command : i.isCommand = true
  · exact (exec_effect command e).cfg_eq
  · cases i with
    | aGuard | aBit0 | aBit1 => exact onA_cfg (moveDuty_cfg s _) e
    | bBit0 | bBit1 => exact onB_cfg (playNibble_cfg s _) e
    | bPair00 | bPair01 | bPair10 | bPair11 | bGuard => exact onB_cfg (writeByte_cfg s _) e
    | _ => exact absurd rfl command

/-- Settles O59: no instruction and no agent of a tick writes a parameter, and hardware reset takes them over. -/
theorem parametersNeverChange : Obligations.ParametersNeverChange := by
  refine fun s t => ⟨fun i => exec_cfg, fun e => ?_⟩
  rcases step_reset_or_agents e with rfl | ⟨u, -, effect, acts⟩
  · rfl
  · rw [agents_next acts]
    simpa using effect.cfg_eq

/-- Settles O49: an instruction that is not well formed is a wire code, and its backend is not the block's. -/
theorem absentBackendIsRefused : Obligations.AbsentBackendIsRefused := by
  intro s i ill
  cases i with
  | aGuard | aBit0 | aBit1 =>
    have absent : s.cfg.backend ≠ .A := fun e => by simp [Instr.wellFormed, Instr.backend?, e] at ill
    exact (onA_eq _ s).trans (if_neg absent)
  | bBit0 | bBit1 | bPair00 | bPair01 | bPair10 | bPair11 | bGuard =>
    have absent : s.cfg.backend ≠ .B := fun e => by simp [Instr.wellFormed, Instr.backend?, e] at ill
    exact (onB_eq _ s).trans (if_neg absent)
  | _ => cases ill

/-! ### The line (R41, R207, R240, R264) -/

/-- A transport at rest keeps the line low, on either backend. -/
theorem dout_of_agents_rest (h : BlockInv s) (rest : s.busy = false ∨ s.buildCnt ≠ 0) {stall : Bool}
    (e : agents stall s = .next t) : t.dout = false := by
  cases backend : s.cfg.backend with
  | A => rw [agentsA_rest backend ((h.onA backend).rest rest)] at e; cases e; rfl
  | B => rw [agentsB_rest backend ((h.onB backend).rest rest) rest] at e; cases e; rfl

/-- The Backend A agents put on the line what R41 makes of their registers, with the counter as the tick found it; after that only the
counters move. -/
theorem agentsA_dout (backend : s.cfg.backend = .A) {stall : Bool} (e : agents stall s = .next t) :
    ∃ r : RegsA, t.a = r.count.settleDown ∧ t.dout = doutA r ∧ r.cnt = s.a.cnt := by
  rw [agents_eq_A backend, Result.andThen_eq_next] at e
  obtain ⟨u, reads, ends⟩ := e
  have generated : (generator s).a.cnt = s.a.cnt := by unfold generator; split <;> rfl
  have moved : u.a.cnt = (generator s).a.cnt := by
    rw [reader_eq (by simpa using backend)] at reads
    (repeat' split at reads) <;> cases reads <;> rfl
  cases ends
  exact ⟨u.a, rfl, rfl, moved.trans generated⟩

/-- The line is high on Backend A exactly under R41's condition. -/
theorem doutA_eq_true_iff (r : RegsA) :
    doutA r = true ↔ r.pinMode = .pwm ∧ r.oe = true ∧ r.pwmEn = true ∧ r.cnt < r.ccrAct := by
  simp [doutA, and_assoc]

/-- The pin is the generator's only in `TRANSMITTING` (R190, R193). -/
theorem PhaseA.transmitting {c : Config} {len : Nat} {r : RegsA} (h : PhaseA c len r) (pin : r.pinMode = .pwm) :
    r.tstate = .transmitting := by
  cases h with
  | preSettle _ _ quiet | postSettle _ _ quiet | resetSettle _ _ quiet => rw [quiet.pin] at pin; cases pin
  | armed _ _ gpio => rw [gpio] at pin; cases pin
  | waitTc state | waitUev state => exact state

/-- A command that leaves the block busy does not touch the generator's counter. -/
theorem CommandEffect.cnt_eq (e : CommandEffect s t) (busy : t.busy = true) : t.a.cnt = s.a.cnt := by
  have started : ∀ u : State, (startTransport u).a.cnt = u.a.cnt := fun u => by unfold startTransport; split <;> rfl
  cases e with
  | same | response v | clear | pixel i p live | brightness v => rfl
  | bind n pos bound idle => rw [bindStrip_busy, idle] at busy; cases busy
  | showing =>
    unfold beginShow
    dsimp only
    split
    · rw [started, build_a]
    · simp
  | latching => unfold beginReset; split <;> rfl

/-- Settles O60: at rest the line is low, so the transport runs; on Backend A the level is `doutA` of registers whose pin and enables the
end of the tick keeps, and `PhaseA` leaves `TRANSMITTING` alone for a pin of the generator's. -/
theorem lineHighOnlyWhileATransportRuns : Obligations.LineHighOnlyWhileATransportRuns := by
  intro s t h e high
  have ht : BlockInv t := invariantKept s t h e
  have cfg : t.cfg = s.cfg := (parametersNeverChange s t).2 e
  rcases step_reset_or_agents_of_inv h e with rfl | ⟨u, hu, effect, acts⟩
  · cases high
  have runs : u.busy = true ∧ u.buildCnt = 0 := by
    by_contra rest
    have low := dout_of_agents_rest hu (by rw [← Bool.not_eq_true]; tauto) acts
    rw [high] at low
    cases low
  have frame := agents_next acts
  have busy : t.busy = true := by rw [frame]; exact runs.1
  have built : t.buildCnt = 0 := by rw [frame]; exact runs.2
  refine ⟨busy, built, fun backend => ?_⟩
  have backend_t : t.cfg.backend = .A := by rw [cfg]; exact backend
  have backend_u : u.cfg.backend = .A := by rw [frame] at backend_t; exact backend_t
  obtain ⟨r, regs, level, cnt⟩ := agentsA_dout backend_u acts
  obtain ⟨pin, oe, pwm, below⟩ := (doutA_eq_true_iff r).mp (level ▸ high)
  have pin_t : t.a.pinMode = .pwm := by simpa [regs] using pin
  refine ⟨((ht.onA backend_t).run busy built).transmitting pin_t, pin_t, by simpa [regs] using oe, by simpa [regs] using pwm, ?_⟩
  rw [← effect.cnt_eq runs.1, ← cnt, regs]
  simpa using below

/-! ### The state after reset (R50) -/

/-- A memory drawn at reset reads as it was drawn, inside the capacity. -/
theorem Store.read_listed_take {α : Type} [DecidableEq α] (d : α) (xs : List α) {cap k : Nat} (hk : k < cap) :
    Store.read d (Store.listed d 0 (xs.take cap)) k = xs.getD k d := by
  rw [Store.read_listed _ (Nat.zero_le k), Nat.sub_zero, List.getD_eq_getElem?_getD, List.getElem?_take_of_lt hk,
    List.getD_eq_getElem?_getD]

theorem doutOf_resetWith (c : Config) (u : ResetDraw) : doutOf (State.resetWith c u) = false := by
  unfold doutOf
  split <;> rfl

/-- Settles O55: the registers by definition of the reset state, the line by backend, the memories by `Store.read_listed_take`. -/
theorem resetValues : Obligations.ResetValues := by
  intro c u t
  refine ⟨rfl, rfl, rfl, rfl, rfl, rfl, rfl, rfl, rfl, rfl, rfl, rfl, rfl, rfl, rfl, rfl, rfl, rfl, rfl, rfl, rfl,
    doutOf_resetWith c u, rfl, rfl, rfl, rfl, rfl, rfl, rfl, rfl, rfl, ?_, ?_, ?_⟩
  · exact fun i hi => Store.read_listed_take Pixel.zero u.pix hi
  · exact fun k hk => Store.read_listed_take 0#16 u.fba hk
  · exact fun k hk => Store.read_listed_take 0#8 u.fbb hk

theorem BlockInv.resetWith {c : Config} (legal : c.legal = true) (u : ResetDraw) : BlockInv (State.resetWith c u) := by
  obtain ⟨memory, strip, restA, restB, serializer⟩ := resetWith_parts legal u
  exact {
    legal := legal, strip := strip, memory := memory
    started := fun busy => nomatch busy
    waiting := fun counting => absurd rfl counting
    onA := fun _ => ⟨fun _ => restA, fun busy => (nomatch busy)⟩
    onB := fun _ => ⟨serializer, fun _ => restB, fun busy => (nomatch busy)⟩
    sampled := fun _ => rfl }

/-- Settles O56: both transports are at rest and nothing is bound; the default parameters are legal. -/
theorem invariantAfterReset : Obligations.InvariantAfterReset :=
  ⟨fun _ u legal => .resetWith legal u, .resetWith (by decide) _⟩

end Sys2Proof.Machine
end

section
/-! PROOFS. The memories (20_memory.md): the stored pixels, the frame a `show` builds of them once, and that the machine goes on. -/

namespace Sys2Proof.Machine

variable {s t : State}

/-! ### A stored pixel (R62, R70, R134, R135) -/

/-- `set_pixel` always answers: it writes the one live pixel its handle and index name, or nothing (R134). -/
theorem exec_setPixel_eq (h : Bool) (i : Half) (r g b : Byte) (s : State) : exec (.setPixel h i r g b) s =
    .next (if h = true ∧ indexLive i s = true then writePix i.toNat { r := r, g := g, b := b } s else s) := by
  simp only [exec, execSetPixel, noop, Bool.and_eq_true]
  split <;> rfl

/-- `get_pixel` at a live index answers the stored colour (R135). -/
theorem exec_getPixel_live {i : Half} (live : indexLive i s = true) :
    exec (.getPixel true i) s = .next { s with rsp := some (rspOfPixel (readPix s i.toNat)) } := by
  simp only [exec, execGetPixel, live, Bool.and_self, if_true, respond]

/-- A live pixel of a canonical memory holds the colour `p`. -/
structure PixelHeld (i : Half) (p : Pixel) (s : State) : Prop where
  canonical : Store.wfFrom Pixel.zero 0 s.strip.pix = true
  live : indexLive i s = true
  holds : readPix s i.toNat = p

/-- Only the pixels, the count and the parameters matter. -/
theorem PixelHeld.congr {i : Half} {p : Pixel} (h : PixelHeld i p s) (hc : t.cfg = s.cfg)
    (hn : t.strip.count = s.strip.count) (hp : t.strip.pix = s.strip.pix) : PixelHeld i p t where
  canonical := by rw [hp]; exact h.canonical
  live := by rw [indexLive, liveCount, hc, hn]; exact h.live
  holds := by rw [readPix, hp]; exact h.holds

/-- A write at a live index puts its colour there. -/
theorem PixelHeld.of_writePix {i : Half} (p : Pixel) (canonical : Store.wfFrom Pixel.zero 0 s.strip.pix = true)
    (live : indexLive i s = true) : PixelHeld i p (writePix i.toNat p s) where
  canonical := Store.wfFrom_write p canonical (Nat.zero_le _)
  live := live
  holds := (Store.read_write p i.toNat canonical).trans (if_pos rfl)

/-- A write at another index leaves the pixel alone. -/
theorem PixelHeld.writePix_ne {i j : Half} {p : Pixel} (h : PixelHeld i p s) (q : Pixel) (other : j ≠ i) :
    PixelHeld i p (writePix j.toNat q s) where
  canonical := Store.wfFrom_write q h.canonical (Nat.zero_le _)
  live := h.live
  holds := by
    have apart : i.toNat ≠ j.toNat := fun e => other (BitVec.eq_of_toNat_eq e.symm)
    exact (Store.read_write q i.toNat h.canonical).trans ((if_neg apart).trans h.holds)

theorem isInit_of_writesPixels {i : Instr} (h : writesPixels i = false) : isInit i = false := by
  cases i with
  | init => cases h
  | _ => rfl

/-- The commands that do not write the pixel at index `i`: those that write no pixel, and `set_pixel` at another index. -/
def spares (i : Half) (c : Instr) : Prop :=
  c.isCommand = true ∧ (writesPixels c = false ∨ ∃ h j r g b, c = .setPixel h j r g b ∧ j ≠ i)

theorem PixelHeld.exec {i : Half} {p : Pixel} {c : Instr} (h : PixelHeld i p s) (hc : spares i c)
    (e : exec c s = .next t) : PixelHeld i p t := by
  obtain ⟨command, noPixel | ⟨handle, j, r, g, b, rfl, other⟩⟩ := hc
  · have w := exec_writtenBy command e
    refine h.congr (exec_cfg e) (w.binding ?_).2 (w.pixels ?_)
    · rintro _ ⟨⟩; exact isInit_of_writesPixels noPixel
    · rintro _ ⟨⟩; exact noPixel
  · rw [exec_setPixel_eq] at e
    split at e <;> cases e
    · exact h.writePix_ne _ other
    · exact h

theorem PixelHeld.execAll {i : Half} {p : Pixel} {between : List Instr} (h : PixelHeld i p s)
    (hb : ∀ c ∈ between, spares i c) (e : execAll between s = .next t) : PixelHeld i p t := by
  induction between generalizing s with
  | nil => cases e; exact h
  | cons c cs ih =>
    obtain ⟨u, first, others⟩ := Result.andThen_eq_next.mp e
    rw [List.forall_mem_cons] at hb
    exact ih (h.exec hb.1 first) hb.2 others

/-- Settles O14: `set_pixel` makes the pixel hold the colour, every command between keeps it so, and `get_pixel` answers it. -/
theorem pixelRoundTrip : Obligations.PixelRoundTrip := by
  intro s t i r g b between strip memory index spared e
  have live : indexLive i s = true := by rw [indexLive, liveCount_eq strip, decide_eq_true index]
  have written : PixelHeld i { r := r, g := g, b := b } (writePix i.toNat { r := r, g := g, b := b } s) :=
    .of_writePix _ ((Memory.wf_iff s).mp memory).1 live
  obtain ⟨u, first, others⟩ := Result.andThen_eq_next.mp e
  rw [exec_setPixel_eq, if_pos ⟨rfl, live⟩] at first
  cases first
  have held := written.execAll spared others
  rw [exec_getPixel_live held.live, held.holds]
  rfl

/-! ### The frame a `show` builds (R71, R160, R172) -/

/-- A build fills the block's own frame buffer and writes nothing else (R167, R168). -/
theorem build_eq (s : State) : build s = { s with
    fba := if s.cfg.backend = .A then
        Store.fill 0#16 (frameA s.cfg s.strip.count.toNat s.strip.brightness s.strip.pix) s.fba else s.fba
    fbb := if s.cfg.backend = .B then
        Store.fill 0#8 (frameB s.cfg s.strip.count.toNat s.strip.brightness s.strip.pix) s.fbb else s.fbb } := by
  cases backend : s.cfg.backend <;> simp [build, backend]

/-- The start of a transport writes that transport's registers and nothing else (R190, R191, R231, R235). -/
theorem startTransport_eq (s : State) : startTransport s = { s with
    a := if s.cfg.backend = .A then RegsA.settle s.cfg { s.a with tphase := .preSettle } else s.a
    b := if s.cfg.backend = .B then s.b.begin (s.cfg.showLen s.showN.toNat) else s.b } := by
  cases backend : s.cfg.backend <;> simp [startTransport, backend]

/-- `show` passes validation on a strip of at least one pixel (R161). -/
theorem showValid_of_count (strip : StripOk s) (count : 1 ≤ s.strip.count.toNat) : showValid true s = true := by
  simp only [showValid, liveCount_eq strip, Bool.true_and, decide_eq_true_eq]
  omega

theorem BlockInv.buildCnt_eq_zero (h : BlockInv s) (idle : s.busy = false) : s.buildCnt = 0 := by
  by_contra counting
  exact h.not_pending idle (.inl counting)

/-- Settles O19: a valid `show` is `beginShow`, the build followed by the start of the transport or by the wait for `BUILD_TICKS`. -/
theorem showAccepted : Obligations.ShowAccepted := by
  intro s h idle count
  have begins : exec (.showFrame true) s = .next (beginShow s) := by
    simp [exec, execShow, showValid_of_count h.strip count, idle]
  rw [begins, beginShow]
  by_cases immediate : s.cfg.buildTicks = 0
  · simp only [immediate, if_true, startTransport_eq, build_eq, and_true, h.buildCnt_eq_zero idle]
    rfl
  · simp only [immediate, if_false, build_eq, and_false]

/-! ### A running operation is left alone (R28, R71, R78, R171): each agent of a tick commutes with a change of the strip -/

/-- A tick that finds the block busy and is not reset is the sequencer's and the agents' (R28). -/
theorem step_of_not_ready (noReset : (nextInput s).rst = false) (running : readyNow s = false) :
    step s = agents (nextInput s).stall (sequencer (beginTick s)) :=
  tick_busy noReset (by simpa [readyNow, cmdReady] using running)

/-- The block with another strip state. -/
def withStrip (o : Strip) (s : State) : State := { s with strip := o }

/-- The same outcome with another strip state in the state it answers. -/
def Result.withStrip (o : Strip) (r : Result) : Result := r.andThen fun t => .next (Machine.withStrip o t)

section
variable (o : Strip) (s)

@[simp] theorem withStrip_cfg : (withStrip o s).cfg = s.cfg := rfl
@[simp] theorem withStrip_a : (withStrip o s).a = s.a := rfl
@[simp] theorem beginTick_withStrip : beginTick (withStrip o s) = withStrip o (beginTick s) := rfl

theorem Result.andThen_withStrip (r : Result) {f : State → Result}
    (hf : ∀ u, f (Machine.withStrip o u) = Result.withStrip o (f u)) :
    (Result.withStrip o r).andThen f = Result.withStrip o (r.andThen f) := by
  cases r with
  | next u => exact hf u
  | fault | refused => rfl

theorem startTransport_withStrip : startTransport (withStrip o s) = withStrip o (startTransport s) := by
  simp only [startTransport_eq]
  rfl

theorem awaitBuild_withStrip : awaitBuild (withStrip o s) = withStrip o (awaitBuild s) := by
  unfold awaitBuild
  rw [apply_ite (withStrip o), ← startTransport_withStrip]
  rfl

theorem sequencerA_withStrip : sequencerA (withStrip o s) = withStrip o (sequencerA s) := by
  cases phase : s.a.tphase <;> simp only [sequencerA, withStrip_a, phase, apply_ite (withStrip o)] <;> rfl

theorem sequencerB_withStrip : sequencerB (withStrip o s) = withStrip o (sequencerB s) := by
  unfold sequencerB
  rw [apply_ite (withStrip o)]
  rfl

/-- The sequencer takes the length of a `show` from the sampled `N`, not from the strip (R71). -/
theorem sequencer_withStrip : sequencer (withStrip o s) = withStrip o (sequencer s) := by
  cases backend : s.cfg.backend <;>
    simp only [sequencer, withStrip_cfg, backend, apply_ite (withStrip o), ← sequencerA_withStrip, ← sequencerB_withStrip,
      ← awaitBuild_withStrip] <;> rfl

theorem onA_withStrip {f : State → State} (hf : f (withStrip o s) = withStrip o (f s)) :
    onA f (withStrip o s) = (onA f s).withStrip o := by
  rw [onA_eq, onA_eq, apply_ite (Result.withStrip o), hf]
  rfl

theorem onB_withStrip {f : State → State} (hf : f (withStrip o s) = withStrip o (f s)) :
    onB f (withStrip o s) = (onB f s).withStrip o := by
  rw [onB_eq, onB_eq, apply_ite (Result.withStrip o), hf]
  rfl

/-- A wire code neither reads nor writes the strip. -/
theorem exec_withStrip {i : Instr} (wire : i.isCommand = false) :
    exec i (withStrip o s) = Result.withStrip o (exec i s) := by
  cases i with
  | aGuard | aBit0 | aBit1 => exact onA_withStrip s o rfl
  | bBit0 | bBit1 | bPair00 | bPair01 | bPair10 | bPair11 | bGuard => exact onB_withStrip s o rfl
  | _ => cases wire

theorem decodeDuty_wire {c : Config} {d : Duty} {i : Instr} (e : decodeDuty c d = .ok i) : i.isCommand = false := by
  unfold decodeDuty at e
  (repeat' split at e) <;> cases e <;> rfl

theorem decodeNibble_wire {c : Config} {n : Nibble} {i : Instr} (e : decodeNibble c n = .ok i) : i.isCommand = false := by
  unfold decodeNibble at e
  (repeat' split at e) <;> cases e <;> rfl

theorem decodeByte_wire {c : Config} {y : Byte} {i : Instr} (e : decodeByte c y = .ok i) : i.isCommand = false := by
  unfold decodeByte at e
  (repeat' split at e) <;> cases e <;> rfl

theorem takeDuty_withStrip (d : Duty) : takeDuty d (withStrip o s) = (takeDuty d s).withStrip o := by
  unfold takeDuty
  rw [withStrip_cfg]
  cases code : decodeDuty s.cfg d with
  | ok i => exact exec_withStrip s o (decodeDuty_wire code)
  | error => rfl

theorem takeNibble_withStrip (n : Nibble) : takeNibble n (withStrip o s) = (takeNibble n s).withStrip o := by
  unfold takeNibble
  rw [withStrip_cfg]
  cases code : decodeNibble s.cfg n with
  | ok i => exact exec_withStrip s o (decodeNibble_wire code)
  | error => rfl

theorem takeByte_withStrip (y : Byte) : takeByte y (withStrip o s) = (takeByte y s).withStrip o := by
  unfold takeByte
  rw [withStrip_cfg]
  cases code : decodeByte s.cfg y with
  | ok i => exact exec_withStrip s o (decodeByte_wire code)
  | error => rfl

theorem generator_withStrip : generator (withStrip o s) = withStrip o (generator s) := by
  unfold generator
  rw [apply_ite (withStrip o)]
  rfl

theorem reader_withStrip (stall : Bool) : reader stall (withStrip o s) = (reader stall s).withStrip o := by
  simp only [reader, apply_ite (Result.withStrip o), ← takeDuty_withStrip]
  rfl

theorem byteLoop_withStrip : byteLoop (withStrip o s) = (byteLoop s).withStrip o := by
  have index : streamIndex (withStrip o s) = streamIndex s := rfl
  unfold byteLoop
  rw [index]
  cases streamIndex s <;> simp only [apply_ite (Result.withStrip o), ← takeByte_withStrip] <;> rfl

theorem serialize_withStrip : serialize (withStrip o s) = (serialize s).withStrip o := by
  simp only [serialize, apply_ite (Result.withStrip o), ← takeNibble_withStrip]
  rfl

/-- The transports send what was built, whatever the strip has become (R71, R169). -/
theorem agents_withStrip (stall : Bool) : agents stall (withStrip o s) = (agents stall s).withStrip o := by
  unfold agents agentsA agentsB
  rw [withStrip_cfg]
  cases s.cfg.backend with
  | A =>
    rw [generator_withStrip, reader_withStrip]
    exact Result.andThen_withStrip o _ fun _ => rfl
  | B =>
    rw [byteLoop_withStrip]
    exact Result.andThen_withStrip o _ fun u => serialize_withStrip (loadB u) o

theorem readyNow_withStrip : readyNow (withStrip o s) = readyNow s := by
  unfold readyNow
  rw [beginTick_withStrip, sequencer_withStrip]
  rfl

/-- A step that runs an operation on is the same on any strip, with that strip in it (R71). -/
theorem step_withStrip (noReset : (nextInput s).rst = false) (running : readyNow s = false) :
    step (withStrip o s) = Result.withStrip o (step s) := by
  have running' : readyNow (withStrip o s) = false := by rw [readyNow_withStrip, running]
  rw [step_of_not_ready noReset running, step_of_not_ready (s := withStrip o s) noReset running', beginTick_withStrip,
    sequencer_withStrip, ← agents_withStrip]
  rfl

end

/-- A command other than `init`, and other than `show` and `reset` with a valid handle, always answers and leaves `busy` as it
is (R28, R130). -/
theorem exec_command_cases {i : Instr} (command : i.isCommand = true) (s : State) :
    (∃ h st n, i = .init h st n) ∨ i = .showFrame true ∨ i = .resetLine true ∨ ∃ t, exec i s = .next t ∧ t.busy = s.busy := by
  cases i with
  | init h st n => exact .inl ⟨h, st, n, rfl⟩
  | showFrame h =>
    cases h with
    | true => exact .inr (.inl rfl)
    | false => exact .inr (.inr (.inr ⟨s, rfl, rfl⟩))
  | resetLine h =>
    cases h with
    | true => exact .inr (.inr (.inl rfl))
    | false => exact .inr (.inr (.inr ⟨s, rfl, rfl⟩))
  | clear h | setBrightness h v | getBrightness h => cases h <;> exact .inr (.inr (.inr ⟨_, rfl, rfl⟩))
  | setPixel h i r g b => exact .inr (.inr (.inr ⟨_, exec_setPixel_eq h i r g b s, by split <;> rfl⟩))
  | getPixel h i =>
    simp only [exec, execGetPixel, respond]
    split <;> exact .inr (.inr (.inr ⟨_, rfl, rfl⟩))
  | reserved0 | reserved9 | reservedA | reservedB | reservedC | reservedD | reservedE | reservedF =>
    exact .inr (.inr (.inr ⟨s, rfl, rfl⟩))
  | aGuard | aBit0 | aBit1 | bBit0 | bBit1 | bPair00 | bPair01 | bPair10 | bPair11 | bGuard => cases command

/-- On a block that is not busy `show` and `reset` alone raise `busy` (R28). -/
theorem exec_raises_busy {i : Instr} (command : i.isCommand = true) (idle : s.busy = false) (e : exec i s = .next t)
    (busy : t.busy = true) : i = .showFrame true ∨ i = .resetLine true := by
  have raised : t.busy ≠ s.busy := by rw [busy, idle]; decide
  rcases exec_command_cases command s with ⟨h, st, n, rfl⟩ | shows | resets | ⟨u, answers, kept⟩
  · rcases execInit_next e with rfl | ⟨rfl, -⟩
    · exact absurd rfl raised
    · exact absurd (bindStrip_busy s n) raised
  · exact .inl shows
  · exact .inr resets
  · rw [e] at answers
    cases answers
    exact absurd kept raised

/-- The agents neither start nor end an operation. -/
theorem agents_busy {stall : Bool} (e : agents stall s = .next t) : t.busy = s.busy := by rw [agents_next e]

/-- Settles O52: a busy tick is the sequencer's and the agents', which see neither the port's word nor the strip; and of the commands only
`show` and `reset` raise `busy`. -/
theorem noCancellation : Obligations.NoCancellation := by
  refine ⟨fun s p rest w v running => ?_, fun s other running noReset => ?_, fun s t e noReset => ⟨?_, ?_⟩⟩
  · obtain ⟨rst, cmd, stall⟩ := p
    cases rst with
    | true => rw [step, step, tick_rst rfl, tick_rst rfl]; rfl
    | false => rw [step_of_not_ready rfl running, step_of_not_ready rfl (by exact running)]; rfl
  · exact step_withStrip s other noReset running
  · intro running
    rw [step_of_not_ready noReset running] at e
    rw [agents_busy e]
    simpa [readyNow, cmdReady] using running
  · intro ready busy
    have idle := (readyNow_iff_not_busy s).mp ready
    rcases step_cases e with ⟨reset, -⟩ | ⟨-, -, acts⟩ | ⟨-, -, i, u, accepted, command, runs, -, acts⟩
    · rw [noReset] at reset; cases reset
    · rw [agents_busy acts, idle] at busy; cases busy
    · rw [agents_busy acts] at busy
      rw [accepted]
      exact (exec_raises_busy command idle runs busy).imp (congrArg some) (congrArg some)

/-! ### The machine goes on (R62, R138, R280) -/

/-- An `init` refused on a block that is not busy is a valid one, on an initialised strip under `REINIT = refuse` (R138). -/
theorem execInit_refused {h st : Bool} {n : Half} {r : Refusal} (idle : s.busy = false)
    (e : execInit h st n s = .refused r) : r = .secondInit ∧ s.strip.inited = true ∧ s.cfg.reinit = .refuse ∧
      initValid h st n s = true := by
  unfold execInit at e
  split at e
  · next valid =>
    split at e
    · next inited =>
      cases reinit : s.cfg.reinit <;> simp only [secondInit, reinit, noop, idle] at e <;> cases e
      exact ⟨rfl, inited, rfl, valid⟩
    · simp only [idle] at e; cases e
  · cases e

theorem initValid_iff {h st : Bool} {n : Half} : initValid h st n s = true ↔
    h = true ∧ st = true ∧ 1 ≤ n.toNat ∧ n.toNat ≤ s.cfg.maxLeds := by
  have positive : n ≠ 0#16 ↔ 1 ≤ n.toNat := by bv_omega
  simp only [initValid, Bool.and_eq_true, bne_iff_ne, positive, decide_eq_true_eq, and_assoc]

/-- Not busy, a command is refused only as a valid `init` on an initialised strip under `REINIT = refuse` (R138). -/
theorem exec_refused_of_idle {i : Instr} {r : Refusal} (command : i.isCommand = true) (idle : s.busy = false)
    (e : exec i s = .refused r) : r = .secondInit ∧ s.strip.inited = true ∧ s.cfg.reinit = .refuse ∧
      ∃ n : Half, i = .init true true n ∧ 1 ≤ n.toNat ∧ n.toNat ≤ s.cfg.maxLeds := by
  rcases exec_command_cases command s with ⟨h, st, n, rfl⟩ | rfl | rfl | ⟨u, answers, -⟩
  · obtain ⟨rfl, inited, refuse, valid⟩ := execInit_refused idle e
    obtain ⟨rfl, rfl, positive, bounded⟩ := initValid_iff.mp valid
    exact ⟨rfl, inited, refuse, n, rfl, positive, bounded⟩
  · simp only [exec, execShow, idle, noop] at e
    split at e <;> cases e
  · simp only [exec, execReset, idle, noop] at e
    split at e <;> cases e
  · rw [e] at answers
    cases answers

/-- A tick that accepts no command and is not reset is the sequencer's and the agents' too. -/
theorem step_of_not_accepted (noReset : (nextInput s).rst = false) (nothing : acceptedNow s = none) :
    step s = agents (nextInput s).stall (sequencer (beginTick s)) := by
  cases ready : readyNow s with
  | false => exact step_of_not_ready noReset ready
  | true => exact tick_no_cmd noReset (by simpa [acceptedNow, noReset, ready] using nothing)

/-- Settles O58: hardware reset and the agents of an invariant state always answer, and the one command refused on a block that is not busy
is the second `init`. -/
theorem stepNeverFaults : Obligations.StepNeverFaults := by
  intro s h
  have goes_on : ∀ u, BlockInv u → ∃ t, agents (nextInput s).stall u = .next t := fun u hu =>
    (hu.agents (nextInput s).stall).imp fun _ => And.left
  have hq : BlockInv (sequencer (beginTick s)) := h.beginTick.sequencer
  cases reset : (nextInput s).rst with
  | true => exact .inl ⟨_, tick_rst reset⟩
  | false =>
    cases accepted : acceptedNow s with
    | none =>
      rw [step_of_not_accepted reset accepted]
      exact .inl (goes_on _ hq)
    | some i =>
      obtain ⟨-, ready, w, -, rfl⟩ := acceptedNow_eq_some_iff.mp accepted
      have idle := (readyNow_iff_not_busy s).mp ready
      have command := decodeCmd_isCommand w
      rw [stepRunsTheCommand s _ accepted]
      cases e : exec (decodeCmd w) (sequencer (beginTick s)) with
      | next u => exact .inl (goes_on u (hq.command idle (exec_effect command e)))
      | fault f => exact absurd e (exec_no_fault command _ f)
      | refused r =>
        obtain ⟨rfl, inited, refuse, valid⟩ := exec_refused_of_idle command idle e
        refine .inr ⟨rfl, by simpa using inited, by simpa using refuse, ?_⟩
        simpa using valid

end Sys2Proof.Machine
end

section
/-! PROOFS. The encodings (30_encoding.md): command words and wire codes, the frame in either buffer and its decoding, the responses, and a
byte on the line. -/

namespace Sys2Proof.Machine

variable {s t : State}

/-! ### Wire codes (R104, R105, R110, R113, R114) -/

/-- The Backend A code of a protocol bit, as an instruction (R104). -/
def dutyInstr (bit : Bool) : Instr := if bit then .aBit1 else .aBit0

/-- The 4-bit code of a protocol bit, as an instruction (R110). -/
def nibbleInstr (bit : Bool) : Instr := if bit then .bBit1 else .bBit0

/-- The data byte of two protocol bits, as an instruction (R114). -/
def pairInstr : Bool → Bool → Instr
  | false, false => .bPair00
  | false, true => .bPair01
  | true, false => .bPair10
  | true, true => .bPair11

theorem decodeDuty_codeA {c : Config} (legal : c.legal = true) (bit : Bool) :
    decodeDuty c (c.codeA bit) = .ok (dutyInstr bit) := by
  unfold decodeDuty
  rw [if_neg (codeA_ne_zero legal bit)]
  cases bit with
  | false => rw [if_pos rfl]; rfl
  | true => rw [if_neg (codeA_inj legal), if_pos rfl]; rfl

theorem decodeNibble_codeB {c : Config} (legal : c.legal = true) (bit : Bool) :
    decodeNibble c (c.codeB bit) = .ok (nibbleInstr bit) := by
  unfold decodeNibble
  cases bit with
  | false => rw [if_pos rfl]; rfl
  | true => rw [if_neg (codeB_inj legal), if_pos rfl]; rfl

/-- The data bytes of two pairs of bits are equal only for equal pairs. -/
theorem pairB_eq_iff {c : Config} (legal : c.legal = true) {x y x' y' : Bool} :
    c.pairB x y = c.pairB x' y' ↔ x = x' ∧ y = y' :=
  ⟨pairB_inj legal, by rintro ⟨rfl, rfl⟩; rfl⟩

theorem decodeByte_pairB {c : Config} (legal : c.legal = true) (x y : Bool) :
    decodeByte c (c.pairB x y) = .ok (pairInstr x y) := by
  unfold decodeByte
  rw [if_neg (pairB_ne_zero legal x y)]
  simp only [pairB_eq_iff legal]
  cases x <;> cases y <;> rfl

/-! ### Command words (R90 to R92, R95) -/

/-- A packed word is decoded by its fields. -/
theorem decode_packed (c : Config) (f : CmdFields) : decode c (packed f) = .ok (decodeFields f) := by
  rw [packed, decode, decodeCmd, cmdFields_packFields]

/-- Settles O1: a command comes back through its fields, a wire code because the codes of a legal block are distinct. -/
theorem decodeOfEncode : Obligations.DecodeOfEncode := by
  intro c i legal
  cases i with
  | aGuard | bGuard => rfl
  | aBit0 => exact decodeDuty_codeA legal false
  | aBit1 => exact decodeDuty_codeA legal true
  | bBit0 => exact decodeNibble_codeB legal false
  | bBit1 => exact decodeNibble_codeB legal true
  | bPair00 => exact decodeByte_pairB legal false false
  | bPair01 => exact decodeByte_pairB legal false true
  | bPair10 => exact decodeByte_pairB legal true false
  | bPair11 => exact decodeByte_pairB legal true true
  | init | clear | setPixel | getPixel | setBrightness | getBrightness | showFrame | resetLine | reserved0 | reserved9 | reservedA
  | reservedB | reservedC | reservedD | reservedE | reservedF =>
    simp [encode, decode_packed, decodeFields, fieldsOf, bitSet_bitOf]

theorem bitSet_eq_getLsbD (v : BitVec 1) : bitSet v = v.getLsbD 0 := by
  rcases BitVec.eq_zero_or_eq_one v with rfl | rfl <;> rfl

/-- A one-bit field of a word, read as a truth value, is that bit. -/
theorem bitSet_extractLsb' {n : Nat} (w : BitVec n) (k : Nat) : bitSet (w.extractLsb' k 1) = w.getLsbD k := by
  rw [bitSet_eq_getLsbD, BitVec.getLsbD_extractLsb']
  simp

/-- A command word is decoded by its opcode and the rest of its fields. -/
theorem decodeCmd_of_opcode {w : CmdWord} {op : BitVec 4} (h : w.extractLsb' 44 4 = op) :
    decodeCmd w = decodeFields { cmdFields w with op := op } := by
  rw [decodeCmd, ← h]; rfl

/-- The mask of bits 47:44 leaves the opcode (R90). -/
theorem opcode_of_masked {w : CmdWord} (op : BitVec 4) (h : w &&& 0xF00000000000#48 = op ++ 0#44) :
    w.extractLsb' 44 4 = op := by
  have masked : (w &&& 0xF00000000000#48).extractLsb' 44 4 = w.extractLsb' 44 4 := by
    rw [BitVec.extractLsb'_and]
    exact BitVec.and_allOnes
  rw [← masked, h]
  exact extract_upper op 0#44

/-- Settles O2: each masked value names the opcode, and `decodeFields` reads the fields of that opcode and no others. -/
theorem commandWordFields : Obligations.CommandWordFields := by
  intro w
  have reads (op : BitVec 4) (h : w &&& 0xF00000000000#48 = op ++ 0#44) := decodeCmd_of_opcode (opcode_of_masked op h)
  refine ⟨fun h => (reads 0x1#4 h).trans ?_, fun h => (reads 0x2#4 h).trans ?_, fun h => (reads 0x3#4 h).trans ?_,
    fun h => (reads 0x4#4 h).trans ?_, fun h => (reads 0x5#4 h).trans ?_, fun h => (reads 0x6#4 h).trans ?_,
    fun h => (reads 0x7#4 h).trans ?_, fun h => (reads 0x8#4 h).trans ?_, fun h => (reads 0x0#4 h).trans ?_,
    fun h => (reads 0x9#4 h).trans ?_, fun h => (reads 0xA#4 h).trans ?_, fun h => (reads 0xB#4 h).trans ?_,
    fun h => (reads 0xC#4 h).trans ?_, fun h => (reads 0xD#4 h).trans ?_, fun h => (reads 0xE#4 h).trans ?_,
    fun h => (reads 0xF#4 h).trans ?_⟩ <;> simp [decodeFields, cmdFields, bitSet_extractLsb']

/-! ### A word that decodes is the code of what it decodes to, and any other is rejected (R107, R115) -/

theorem encode_of_decodeDuty {c : Config} {d : Duty} {i : Instr} (e : decodeDuty c d = .ok i) : encode c i = .duty d := by
  unfold decodeDuty at e
  (repeat' split at e) <;> cases e <;> simp only [encode, *]

theorem encode_of_decodeNibble {c : Config} {n : Nibble} {i : Instr} (e : decodeNibble c n = .ok i) :
    encode c i = .nibble n := by
  unfold decodeNibble at e
  (repeat' split at e) <;> cases e <;> simp only [encode, *]

theorem encode_of_decodeByte {c : Config} {y : Byte} {i : Instr} (e : decodeByte c y = .ok i) : encode c i = .byte y := by
  unfold decodeByte at e
  (repeat' split at e) <;> cases e <;> simp only [encode, *]

theorem decodeDuty_illegal {c : Config} {d : Duty} (guard : d ≠ 0#16) (data : ∀ bit, d ≠ c.codeA bit) :
    decodeDuty c d = .error .illegalDuty := by
  simp [decodeDuty, guard, data]

theorem decodeNibble_illegal {c : Config} {n : Nibble} (data : ∀ bit, n ≠ c.codeB bit) :
    decodeNibble c n = .error .illegalNibble := by
  simp [decodeNibble, data]

theorem decodeByte_illegal {c : Config} {y : Byte} (guard : y ≠ 0#8) (data : ∀ earlier later, y ≠ c.pairB earlier later) :
    decodeByte c y = .error .illegalByte := by
  simp [decodeByte, guard, data]

/-- The code of a bit is one of the two 4-bit codes. -/
theorem codeB_eq_or (c : Config) (bit : Bool) : c.codeB bit = c.code0Nib ∨ c.codeB bit = c.code1Nib := by
  cases bit with
  | false => exact .inl rfl
  | true => exact .inr rfl

/-- Settles O3: what decodes is read off the decoder's branches, what encodes comes back by the round trip O1, and a rejected word differs
from every code. -/
theorem wireCodesExactly : Obligations.WireCodesExactly := by
  intro c legal
  have back {i : Instr} {code : Code} (e : encode c i = code) : decode c code = .ok i := e ▸ decodeOfEncode c i legal
  refine ⟨fun d i => ⟨encode_of_decodeDuty, back⟩, fun n i => ⟨encode_of_decodeNibble, back⟩,
    fun y i => ⟨encode_of_decodeByte, back⟩, fun d guard zero one => decodeDuty_illegal guard ?_,
    fun n zero one => decodeNibble_illegal ?_, fun y guard data => decodeByte_illegal guard ?_⟩
  · rintro bit rfl
    rw [codeA_toNat legal] at zero one
    cases bit <;> contradiction
  · rintro bit rfl
    exact (codeB_eq_or c bit).elim zero one
  · rintro earlier later rfl
    rw [pairB_high, pairB_low] at data
    exact data ⟨codeB_eq_or c earlier, codeB_eq_or c later⟩

/-- Settles O4, each word by running the decoder on it. -/
theorem sampleWords : Obligations.SampleWords :=
  ⟨rfl, rfl, rfl, rfl, rfl, rfl, rfl, rfl, rfl, rfl⟩

/-- Settles O11: a reserved opcode decodes to its reserved instruction, and each of the eight is a `noop`. -/
theorem reservedDoNothing : Obligations.ReservedDoNothing := by
  refine ⟨fun s w reserved => ?_, fun s => ⟨rfl, rfl, rfl, rfl, rfl, rfl, rfl, rfl⟩⟩
  simp only [List.mem_cons, List.not_mem_nil, or_false] at reserved
  rcases reserved with h | h | h | h | h | h | h | h <;> rw [decodeCmd_of_opcode h] <;> rfl

/-! ### The wire order (R101, R102) -/

theorem wireWord_green (p : Pixel) : (wireWord p).extractLsb' 16 8 = p.g := by
  rw [wireWord, BitVec.extractLsb'_append_eq_of_le (by decide)]
  exact extract_upper p.g p.r

theorem wireWord_red (p : Pixel) : (wireWord p).extractLsb' 8 8 = p.r := by
  rw [wireWord, BitVec.extractLsb'_append_eq_of_le (by decide), extract_lower _ _ (by decide)]
  exact BitVec.extractLsb'_eq_self

theorem wireWord_blue (p : Pixel) : (wireWord p).extractLsb' 0 8 = p.b := by
  rw [wireWord, extract_lower _ _ (by decide)]
  exact BitVec.extractLsb'_eq_self

/-- Bit by bit: blue lowest, then red, then green. -/
theorem wireWord_getLsbD (p : Pixel) (k : Nat) : (wireWord p).getLsbD k =
    if k < 8 then p.b.getLsbD k else if k < 16 then p.r.getLsbD (k - 8) else p.g.getLsbD (k - 16) := by
  rw [wireWord, BitVec.getLsbD_append, BitVec.getLsbD_append]
  split
  · rfl
  · simp only [show k - 8 < 8 ↔ k < 16 by omega, show k - 8 - 8 = k - 16 by omega]

/-- Settles O24: the slices of a concatenation, and its bits. -/
theorem wireOrder : Obligations.WireOrder := by
  intro p
  refine ⟨wireWord_green p, wireWord_red p, wireWord_blue p, fun j hj => ⟨rfl, ?_⟩⟩
  rw [protocolBit, wireWord_getLsbD]
  by_cases green : j < 8
  · rw [if_neg (by omega), if_neg (by omega), if_pos green, show 23 - j - 16 = 7 - j by omega]
  · by_cases red : j < 16
    · rw [if_neg (by omega), if_pos (by omega), if_neg green, if_pos red, show 23 - j - 8 = 15 - j by omega]
    · rw [if_pos (by omega), if_neg green, if_neg red]

/-! ### The frame a `show` leaves in its buffer (R103, R108, R112, R167, R168) -/

/-- A valid `show` on a block that is not busy is accepted (R160). -/
theorem exec_showFrame_eq (h : BlockInv s) (idle : s.busy = false) (count : 1 ≤ s.strip.count.toNat) :
    exec (.showFrame true) s = .next (beginShow s) := by
  simp [exec, execShow, showValid_of_count h.strip count, idle]

/-- The start of a transport leaves the built frame in its buffer. -/
theorem beginShow_fba (s : State) : (beginShow s).fba = (build s).fba := by
  unfold beginShow
  dsimp only
  split <;> simp [build_eq]

theorem beginShow_fbb (s : State) : (beginShow s).fbb = (build s).fbb := by
  unfold beginShow
  dsimp only
  split <;> simp [build_eq]

/-- The protocol bits of the frame that a `show` of the strip sends, in time order (R103, R173). -/
def shownBits (s : State) : List Bool := frameBits s.strip.count.toNat s.strip.brightness s.strip.pix

@[simp] theorem shownBits_length (s : State) : (shownBits s).length = 24 * s.strip.count.toNat := frameBits_length _ _ _

/-- Protocol bit `j` of LED `i`. -/
theorem shownBits_getD {i j : Nat} (hi : i < s.strip.count.toNat) (hj : j < 24) :
    (shownBits s).getD (24 * i + j) false = protocolBit (wireWord (scaled s.strip.brightness (readPix s i))) j :=
  frameBits_getD _ _ _ hi hj

/-- What `FBA` holds after a valid `show` is accepted (R108). -/
theorem readFba_beginShow (backend : s.cfg.backend = .A) (memory : Memory.wf s = true) (k : Nat) :
    readFba (beginShow s) k = if k < Config.lenA s.strip.count.toNat then
      (frameA s.cfg s.strip.count.toNat s.strip.brightness s.strip.pix).getD k 0#16 else readFba s k := by
  rw [← build_readFba backend memory, readFba, readFba, beginShow_fba]

/-- What `FBB` holds after a valid `show` is accepted (R112). -/
theorem readFbb_beginShow (backend : s.cfg.backend = .B) (memory : Memory.wf s = true) (k : Nat) :
    readFbb (beginShow s) k = if k < Config.lenB s.strip.count.toNat then
      (frameB s.cfg s.strip.count.toNat s.strip.brightness s.strip.pix).getD k 0#8 else readFbb s k := by
  rw [← build_readFbb backend memory, readFbb, readFbb, beginShow_fbb]

/-- Data slot `m` of the built `FBA` is the code of bit `m` of the frame (R108). -/
theorem readFba_beginShow_data (backend : s.cfg.backend = .A) (memory : Memory.wf s = true) {m : Nat}
    (hm : m < 24 * s.strip.count.toNat) :
    readFba (beginShow s) (1 + m) = s.cfg.codeA ((shownBits s).getD m false) := by
  have hi : m / 24 < s.strip.count.toNat := by omega
  have hj : m % 24 < 24 := by omega
  rw [readFba_beginShow backend memory, if_pos (by simp only [Config.lenA]; omega), ← Nat.div_add_mod m 24,
    frameA_getD_data _ _ _ _ hi hj, shownBits_getD hi hj, readPix]

/-- Data byte `q` of the built `FBB` carries bits `2q` and `2q + 1` of the frame (R111, R112). -/
theorem readFbb_beginShow_data (backend : s.cfg.backend = .B) (memory : Memory.wf s = true) {q : Nat}
    (hq : q < 12 * s.strip.count.toNat) :
    readFbb (beginShow s) (1 + q) =
      s.cfg.pairB ((shownBits s).getD (2 * q) false) ((shownBits s).getD (2 * q + 1) false) := by
  have hi : q / 12 < s.strip.count.toNat := by omega
  have hj : q % 12 < 12 := by omega
  have even : 2 * q = 24 * (q / 12) + 2 * (q % 12) := by omega
  rw [readFbb_beginShow backend memory, if_pos (by simp only [Config.lenB]; omega), even, Nat.add_assoc,
    shownBits_getD hi (by omega), shownBits_getD hi (by omega), readPix, ← frameB_getD_data _ _ _ _ hi hj, Nat.div_add_mod]

/-- Settles O20: the data slots by the frame's bits, the guards and what lies beyond by the build. -/
theorem frameLayoutA : Obligations.FrameLayoutA := by
  intro s h backend idle count
  have reads := readFba_beginShow backend h.memory
  refine ⟨beginShow s, exec_showFrame_eq h idle count, ?_, fun i j hi hj => ?_, ?_, fun k beyond => ?_⟩
  · rw [reads, if_pos (by simp [Config.lenA])]; rfl
  · rw [Nat.add_assoc, readFba_beginShow_data backend h.memory (by omega), shownBits_getD hi hj, Config.codeA,
      apply_ite (BitVec.ofNat 16)]
    rfl
  · rw [reads, if_pos (by simp [Config.lenA]), frameA_getD_last]
  · rw [reads, if_neg (by simp only [Config.lenA]; omega)]

/-- Settles O21, as O20: byte `q` of LED `i` carries bits `24i + 2q` and `24i + 2q + 1` of the frame. -/
theorem frameLayoutB : Obligations.FrameLayoutB := by
  intro s h backend idle count
  have reads := readFbb_beginShow backend h.memory
  refine ⟨beginShow s, exec_showFrame_eq h idle count, ?_, fun i q hi hq => ?_, ?_, fun k beyond => ?_⟩
  · rw [reads, if_pos (by simp [Config.lenB])]; rfl
  · have even : 2 * (12 * i + q) = 24 * i + 2 * q := by omega
    intro w
    rw [Nat.add_assoc 1, readFbb_beginShow_data backend h.memory (by omega), even, Nat.add_assoc,
      shownBits_getD hi (by omega), shownBits_getD hi (by omega)]
    rfl
  · rw [reads, if_pos (by simp [Config.lenB]), frameB_getD_last]
  · rw [reads, if_neg (by simp only [Config.lenB]; omega)]

/-! ### Decoding a built buffer (R107, R115, R117) -/

theorem decA_codeA {c : Config} (legal : c.legal = true) (bit : Bool) : decA c (c.codeA bit) = .bit bit := by
  unfold decA
  cases bit with
  | false => rw [if_pos rfl]
  | true => rw [if_neg (codeA_inj legal), if_pos rfl]

theorem decB_codeB {c : Config} (legal : c.legal = true) (bit : Bool) : decB c (c.codeB bit) = some bit := by
  unfold decB
  cases bit with
  | false => rw [if_pos rfl]
  | true => rw [if_neg (codeB_inj legal), if_pos rfl]

/-- The nibble of bit `m` of a data byte of two bits is that bit's code (R115). -/
theorem nibble_pairB (c : Config) (bit : Nat → Bool) (m : Nat) :
    (if m % 2 = 0 then (c.pairB (bit (2 * (m / 2))) (bit (2 * (m / 2) + 1))).extractLsb' 4 4
      else (c.pairB (bit (2 * (m / 2))) (bit (2 * (m / 2) + 1))).extractLsb' 0 4) = c.codeB (bit m) := by
  split
  · rw [pairB_high, show 2 * (m / 2) = m by omega]
  · rw [pairB_low, show 2 * (m / 2) + 1 = m by omega]

theorem decA_beginShow (h : BlockInv s) (backend : s.cfg.backend = .A) {m : Nat} (hm : m < 24 * s.strip.count.toNat) :
    decA s.cfg (readFba (beginShow s) (1 + m)) = .bit ((shownBits s).getD m false) := by
  rw [readFba_beginShow_data backend h.memory hm, decA_codeA h.legal]

theorem bitOfFbb_beginShow (h : BlockInv s) (backend : s.cfg.backend = .B) {m : Nat} (hm : m < 24 * s.strip.count.toNat) :
    bitOfFbb (beginShow s) m = some ((shownBits s).getD m false) := by
  rw [bitOfFbb, beginShow_cfg, readFbb_beginShow_data backend h.memory (by omega),
    nibble_pairB s.cfg (fun k => (shownBits s).getD k false), decB_codeB h.legal]

/-- Decoding position by position is decoding the list. -/
theorem map_range_eq_map_of_getD {α β : Type} (d : α) (xs : List α) {f : Nat → β} {g : α → β}
    (hf : ∀ m, m < xs.length → f m = g (xs.getD m d)) : (List.range xs.length).map f = xs.map g := by
  refine List.ext_getElem (by simp) fun m h _ => ?_
  simp only [List.length_map, List.length_range] at h
  simp [hf m h, h]

/-- Settles O25: either buffer decodes to `shownBits`, which the strip state alone determines. -/
theorem backendsAgree : Obligations.BackendsAgree := by
  refine ⟨fun s h backend idle count => ?_, fun s h backend idle count => ?_,
    fun s u t v hs hu backendA backendB idle_s idle_u count same shows_s shows_u m hm => ?_, rfl, rfl, rfl, rfl⟩
  · refine ⟨beginShow s, exec_showFrame_eq h idle count, ?_⟩
    rw [← shownBits_length s]
    exact map_range_eq_map_of_getD false _ fun m hm => decA_beginShow h backend (by simpa using hm)
  · refine ⟨beginShow s, exec_showFrame_eq h idle count, ?_⟩
    rw [← shownBits_length s]
    refine map_range_eq_map_of_getD false _ fun m hm => ?_
    rw [← beginShow_cfg s]
    exact bitOfFbb_beginShow h backend (by simpa using hm)
  · rw [exec_showFrame_eq hs idle_s count] at shows_s
    rw [exec_showFrame_eq hu idle_u (same ▸ count)] at shows_u
    cases shows_s
    cases shows_u
    have bits : shownBits u = shownBits s := by rw [shownBits, shownBits, same]
    exact ⟨(shownBits s).getD m false, decA_beginShow hs backendA hm, bits ▸ bitOfFbb_beginShow hu backendB (same ▸ hm)⟩

/-! ### The discriminator (R118) -/

/-- A pulse: a high run, then a low run (R14). -/
def pulse (high low : Nat) : List Bool := List.replicate high true ++ List.replicate low false

@[simp] theorem pulse_length (high low : Nat) : (pulse high low).length = high + low := by simp [pulse]

theorem highRun_pulse (high low : Nat) : highRun (pulse high low) = high := by
  induction high with
  | zero => cases low <;> rfl
  | succ high ih => rw [pulse, List.replicate_succ, List.cons_append, highRun, ← pulse, ih]

/-- The discriminator reads a pulse by its longer part. -/
theorem discriminate_pulse (high low : Nat) :
    discriminate (pulse high low) = if high = 0 then none else some (decide (low ≤ high)) := by
  have longer : high + low ≤ 2 * high ↔ low ≤ high := by omega
  simp only [discriminate, highRun_pulse, pulse_length, longer]

/-- A bit period of Backend A is a pulse of the duty's length (R109). -/
theorem periodLine_eq_pulse (c : Config) (d : Nat) : periodLine c d = pulse d (c.periodTicks - d) := rfl

/-- The windows of the three 4-bit codes a legal block may have are pulses of one, two and three bit-times in four (R9, R116). -/
theorem windowLine_eq_pulse (c : Config) :
    windowLine c 0b1000#4 = pulse c.sbitTicks (3 * c.sbitTicks) ∧
    windowLine c 0b1100#4 = pulse (2 * c.sbitTicks) (2 * c.sbitTicks) ∧
    windowLine c 0b1110#4 = pulse (3 * c.sbitTicks) c.sbitTicks := by
  have two : 2 * c.sbitTicks = c.sbitTicks + c.sbitTicks := by omega
  have three : 3 * c.sbitTicks = c.sbitTicks + (c.sbitTicks + c.sbitTicks) := by omega
  refine ⟨?_, ?_, ?_⟩ <;> simp [windowLine, pulse, two, three, List.replicate_add, -List.replicate_append_replicate]

/-- On either side of half the period a duty is read as the bit it is for (R118). -/
theorem discriminate_periodLine {c : Config} (legal : c.legal = true) (zero : 2 * c.duty0Ticks < c.periodTicks)
    (one : c.periodTicks ≤ 2 * c.duty1Ticks) (bit : Bool) : discriminate (periodLine c (c.codeA bit).toNat) = some bit := by
  obtain ⟨-, -, -, -, -, positive, increasing, -⟩ := c.legal_iff.mp legal
  rw [periodLine_eq_pulse, discriminate_pulse, codeA_toNat legal]
  cases bit <;> simp <;> omega

/-- Where the 0-code is high for one bit-time of four, the 1-code is high for two or three (R118). -/
theorem discriminate_windowLine {c : Config} (legal : c.legal = true) (zero : c.code0Nib = 0b1000#4) (bit : Bool) :
    discriminate (windowLine c (c.codeB bit)) = some bit := by
  obtain ⟨code0, code1, code2⟩ := windowLine_eq_pulse c
  have positive : 1 ≤ c.sbitTicks := by rw [Config.legal_iff] at legal; omega
  cases bit with
  | false =>
    rw [show c.codeB false = 0b1000#4 from zero, code0, discriminate_pulse]
    simp; omega
  | true =>
    rcases codeB_shape legal true with shape | shape | shape
    · exact absurd (shape.trans zero.symm) (codeB_inj legal)
    · rw [shape, code1, discriminate_pulse]
      simp; omega
    · rw [shape, code2, discriminate_pulse]
      simp; omega

theorem periodLine_length {c : Config} (legal : c.legal = true) (bit : Bool) :
    (periodLine c (c.codeA bit).toNat).length = c.periodTicks := by
  obtain ⟨-, -, -, -, -, -, increasing, below, -⟩ := c.legal_iff.mp legal
  rw [periodLine_eq_pulse, pulse_length, codeA_toNat legal]
  cases bit <;> simp <;> omega

theorem windowLine_length (c : Config) (n : Nibble) : (windowLine c n).length = 4 * c.sbitTicks := by
  simp [windowLine]; omega

/-- Settles O27: both shapes are pulses, and `decodeWindows_flatMap` cuts a line of them into its bits. -/
theorem discriminatorReadsBothShapes : Obligations.DiscriminatorReadsBothShapes := by
  intro c bit legal
  refine ⟨fun zero one => discriminate_periodLine legal zero one bit, fun zero => discriminate_windowLine legal zero bit,
    discriminate_pulse 0 _, fun sides bits rest => ⟨fun backend => ?_, fun backend => ?_⟩⟩
  · simp only [discriminable, backend, Bool.and_eq_true, decide_eq_true_eq] at sides
    exact decodeWindows_flatMap (periodLine_length legal) (discriminate_periodLine legal sides.1 sides.2) bits rest
  · simp only [discriminable, backend, beq_iff_eq] at sides
    exact decodeWindows_flatMap (fun b => windowLine_length c _) (discriminate_windowLine legal sides) bits rest

/-! ### The response channel (R96) -/

/-- The response an instruction gives, if any: `get_pixel` the stored colour or black, `get_brightness` the brightness or 0 (R96, R135,
R137). -/
def responseOf (s : State) : Instr → Option Word24
  | .getPixel h i => some (if h && indexLive i s then rspOfPixel (readPix s i.toNat) else 0#24)
  | .getBrightness h => some (if h then rspOfByte s.strip.brightness else 0#24)
  | _ => none

/-- Only the strip and the parameters matter to a response. -/
theorem responseOf_congr (hc : t.cfg = s.cfg) (hs : t.strip = s.strip) (i : Instr) : responseOf t i = responseOf s i := by
  cases i with
  | getPixel h i =>
    have live : indexLive i t = indexLive i s := by rw [indexLive, indexLive, liveCount, liveCount, hc, hs]
    simp only [responseOf, live, readPix, hs]
  | getBrightness h => simp only [responseOf, hs]
  | _ => rfl

/-- A command gives its response, or leaves the channel as it is. -/
theorem exec_rsp {i : Instr} (command : i.isCommand = true) (e : exec i s = .next t) : t.rsp = (responseOf s i).or s.rsp := by
  cases i with
  | init h st n =>
    rcases execInit_next e with rfl | ⟨rfl, -⟩
    · rfl
    · exact bindStrip_rsp s n
  | clear h | setBrightness h v => cases h <;> cases e <;> rfl
  | setPixel h i r g b =>
    rw [exec_setPixel_eq] at e
    cases e
    rw [apply_ite State.rsp, writePix_rsp, ite_self]
    rfl
  | getPixel h i =>
    simp only [exec, execGetPixel, respond] at e
    split at e
    · next live => cases e; simp [responseOf, live]
    · next dead => cases e; simp [responseOf, dead]; rfl
  | getBrightness h => cases h <;> cases e <;> rfl
  | showFrame h =>
    simp only [exec, execShow, noop] at e
    (repeat' split at e) <;> cases e
    · exact beginShow_rsp s
    · rfl
  | resetLine h =>
    simp only [exec, execReset, noop] at e
    (repeat' split at e) <;> cases e
    · exact beginReset_rsp s
    · rfl
  | reserved0 | reserved9 | reservedA | reservedB | reservedC | reservedD | reservedE | reservedF => cases e; rfl
  | aGuard | aBit0 | aBit1 | bBit0 | bBit1 | bPair00 | bPair01 | bPair10 | bPair11 | bGuard => cases command

/-- After a step the response channel carries what the command accepted in it answered, and nothing else (R96). -/
theorem step_rsp (e : step s = .next t) : t.rsp = (acceptedNow s).bind (responseOf s) := by
  rcases step_cases e with ⟨reset, rfl⟩ | ⟨-, nothing, acts⟩ | ⟨-, -, i, u, accepted, command, runs, -, acts⟩
  · simp [acceptedNow, reset]
  · rw [agents_next acts, nothing]
    simp
  · have answers : u.rsp = responseOf s i := by
      rw [exec_rsp command runs, responseOf_congr (s := s) (by simp) (by simp)]
      simp
    rw [agents_next acts, accepted]
    exact answers

/-- Settles O53 from `step_rsp`, with the index bound of a strip that meets R25. -/
theorem responseChannel : Obligations.ResponseChannel := by
  intro s t strip e
  have rsp := step_rsp e
  refine ⟨fun h i accepted => ?_, fun h accepted => ?_, fun noPixel noBrightness => ?_⟩
  · rw [accepted] at rsp
    simp [rspValid, rspData, rsp, responseOf, indexLive, liveCount_eq strip, rspOfPixel]
  · rw [accepted] at rsp
    simp [rspValid, rspData, rsp, responseOf, rspOfByte]
  · rw [rspValid, rsp]
    cases accepted : acceptedNow s with
    | none => rfl
    | some i =>
      cases i with
      | getPixel h i => exact absurd accepted (noPixel h i)
      | getBrightness h => exact absurd accepted (noBrightness h)
      | _ => rfl

/-! ### The wire codes as instructions (log entry 2) -/

/-- The completion flag rises with the last element (R200). -/
theorem RegsA.transfer_eq (d : Duty) (r : RegsA) : r.transfer d = { r with
    ccrPre := d, dmaPtr := r.dmaPtr + 1#16, dmaRem := r.dmaRem - 1#16, dmaReq := false
    dmaTc := if r.dmaRem = 1#16 then true else r.dmaTc } := by
  have last : r.dmaRem - 1#16 = 0#16 ↔ r.dmaRem = 1#16 := by bv_omega
  simp only [RegsA.transfer, RegsA.mk.injEq, true_and, and_true]
  by_cases h : r.dmaRem = 1#16 <;> simp [last, h]

/-- Settles O46: each duty code is the reader's transfer of its value. -/
theorem dutyCodesMove : Obligations.DutyCodesMove := by
  intro s backend moved
  have moves (d : Nat) : onA (moveDuty (BitVec.ofNat 16 d)) s = .next (moved d) := by
    rw [onA_eq, if_pos backend, moveDuty, RegsA.transfer_eq]
  exact ⟨moves 0, moves s.cfg.duty0Ticks, moves s.cfg.duty1Ticks⟩

/-- Settles O47: each byte code is the byte loop's write of its byte. -/
theorem byteCodesAreWritten : Obligations.ByteCodesAreWritten := by
  intro s backend written
  have writes (y : Byte) : onB (writeByte y) s = .next (written y) := (onB_eq _ s).trans (if_pos backend)
  exact ⟨writes _, writes _, writes _, writes _, writes _⟩

/-- Every code of a legal block starts high (R9, R110). -/
theorem codeB_getLsbD_three {c : Config} (legal : c.legal = true) (bit : Bool) : (c.codeB bit).getLsbD 3 = true := by
  rcases codeB_shape legal bit with shape | shape | shape <;> rw [shape] <;> rfl

/-- The bit on the line is bit 3 of the code at the head. -/
theorem head_getLsbD_seven (n : Nibble) (r : RegsB) : (r.head n).sr.getLsbD 7 = n.getLsbD 3 := by
  rw [RegsB.head_sr, BitVec.getLsbD_append]
  rfl

/-- Settles O48: the code at the head puts its bit 3 on the line, which is 1, and the end of tick is the bit's last or not. -/
theorem nibbleCodesArePlayed : Obligations.NibbleCodesArePlayed := by
  intro s legal backend window start played
  have running : s.b.srCnt ≠ 0#4 := by rcases window with e | e <;> rw [e] <;> decide
  have plays (bit : Bool) : onB (playNibble (s.cfg.codeB bit)) s = .next (played (s.cfg.codeB bit)) := by
    have high : doutB (s.b.head (s.cfg.codeB bit)) = true := by
      rw [doutB, head_getLsbD_seven, codeB_getLsbD_three legal, RegsB.head_srCnt, bne_iff_ne.mpr running]
      rfl
    rw [onB_eq, if_pos backend, playNibble, endTickB, high]
    simp [RegsB.shift, played, running, start, eq_comm (a := 1), RegsB.head]
  exact ⟨plays false, plays true⟩

/-! ### Runs, one tick after another -/

theorem CommandEffect.inputs_eq (e : CommandEffect s t) : t.inputs = s.inputs ∧ t.restStall = s.restStall := by
  cases e with
  | same | response v | clear | pixel i p live | brightness v => exact ⟨rfl, rfl⟩
  | bind n => exact ⟨bindStrip_inputs s n, bindStrip_restStall s n⟩
  | showing => exact ⟨beginShow_inputs s, beginShow_restStall s⟩
  | latching => exact ⟨beginReset_inputs s, beginReset_restStall s⟩

/-- A step takes one tick's inputs and leaves the others as they are to come. -/
theorem inputAt_of_step (e : step s = .next t) (j : Nat) : inputAt t j = inputAt s (j + 1) := by
  rcases step_reset_or_agents e with rfl | ⟨u, -, effect, acts⟩
  · exact inputAt_tail (s := s) (t := hardwareReset (beginTick s)) rfl rfl j
  · obtain ⟨inputs, rest⟩ := effect.inputs_eq
    rw [agents_next acts]
    exact inputAt_tail (by simp [inputs]) (by simp [rest]) j

theorem noRst_of_step {k : Nat} (e : step s = .next t) (h : noRst (k + 1) s) : noRst k t := fun j hj => by
  rw [inputAt_of_step e]
  exact h (j + 1) (by omega)

theorem noRst_of_le {k l : Nat} (h : noRst l s) (hk : k ≤ l) : noRst k s := fun j hj => h j (by omega)

theorem nextInput_rst_of_noRst {k : Nat} (h : noRst (k + 1) s) : (nextInput s).rst = false := by
  rw [nextInput_eq]
  exact h 0 (by omega)

/-- A run is a step and the run after it. -/
theorem after_succ (k : Nat) (s : State) : after (k + 1) s = Result.andThen (step s) (after k) := by
  have same : core.step s = step s := rfl
  simp only [after, Host.Core.run, same]
  cases step s <;> rfl

theorem lineTrace_succ (e : step s = .next t) (k : Nat) : lineTrace (k + 1) s = t.dout :: lineTrace k t := by
  rw [lineTrace, e]

theorem noRst_of_after {k m : Nat} (e : after k s = .next t) (h : noRst (k + m) s) : noRst m t := by
  induction k generalizing s with
  | zero => cases e; rwa [Nat.zero_add] at h
  | succ k ih =>
    rw [after_succ, Result.andThen_eq_next] at e
    obtain ⟨u, first, rest⟩ := e
    rw [Nat.succ_add] at h
    exact ih rest (noRst_of_step first h)

/-- The line of a run cut at a state it reaches. -/
theorem lineTrace_add {k : Nat} (e : after k s = .next t) (m : Nat) :
    lineTrace (k + m) s = lineTrace k s ++ lineTrace m t := by
  induction k generalizing s with
  | zero => cases e; rw [Nat.zero_add]; rfl
  | succ k ih =>
    rw [after_succ, Result.andThen_eq_next] at e
    obtain ⟨u, first, rest⟩ := e
    rw [Nat.succ_add, lineTrace_succ first, lineTrace_succ first, ih rest, List.cons_append]

/-! ### The serializer (R116, R232) -/

theorem RegsB.load_of_running {r : RegsB} (running : r.srCnt ≠ 0#4) : r.load = r := by
  simp [RegsB.load, running]

theorem RegsB.load_of_empty {r : RegsB} (empty : r.drFull = false) : r.load = r := by
  simp [RegsB.load, empty]

theorem RegsB.shift_within {c : Config} {r : RegsB} (running : r.srCnt ≠ 0#4) (within : r.sbitCnt + 1 ≠ c.sbitTicks) :
    r.shift c = { r with sbitCnt := r.sbitCnt + 1 } := by
  rw [RegsB.shift, if_neg running, if_neg within]

theorem RegsB.shift_last {c : Config} {r : RegsB} (running : r.srCnt ≠ 0#4) (last : r.sbitCnt + 1 = c.sbitTicks) :
    r.shift c = { r with sbitCnt := 0, sr := r.sr <<< (1 : Nat), srCnt := r.srCnt - 1#4 } := by
  rw [RegsB.shift, if_neg running, if_pos last]

/-- The serializer, once it has loaded what waits, has the `n + 1` bits from bit 7 of `y` down to send, the first for `j` ticks already. -/
structure HoldsBits (n : Nat) (y : Byte) (j : Nat) (r : RegsB) : Prop where
  bits : r.load.srCnt.toNat = n + 1
  word : r.load.sr = y
  ticks : r.load.sbitCnt = j

variable {n j : Nat} {y : Byte} {c : Config} {r : RegsB}

theorem HoldsBits.running (h : HoldsBits n y j r) : r.load.srCnt ≠ 0#4 := by
  intro zero
  have bits := h.bits
  rw [zero] at bits
  cases bits

/-- A serializer with bits to send has not finished (R234). -/
theorem HoldsBits.not_spiTc (h : HoldsBits n y j r) : spiTc r = false := by
  have running := h.running
  cases full : r.drFull with
  | true => simp [spiTc, full]
  | false =>
    rw [RegsB.load_of_empty full] at running
    simp [spiTc, running]

/-- The byte loop's write waits behind the bits being sent (R233). -/
theorem HoldsBits.send (h : HoldsBits n y j r) (empty : r.drFull = false) (x : Byte) :
    HoldsBits n y j (r.send x) := by
  have running := h.running
  obtain ⟨bits, word, ticks⟩ := h
  rw [RegsB.load_of_empty empty] at bits word ticks running
  have same : (r.send x).load = r.send x := RegsB.load_of_running running
  exact ⟨same.symm ▸ bits, same.symm ▸ word, same.symm ▸ ticks⟩

theorem HoldsBits.doutB (h : HoldsBits n y j r) : Machine.doutB r.load = y.getLsbD 7 := by
  rw [Machine.doutB, bne_iff_ne.mpr h.running, h.word, Bool.true_and]

theorem HoldsBits.shift_within (h : HoldsBits n y j r)
    (within : j + 1 ≠ c.sbitTicks) : HoldsBits n y (j + 1) (r.load.shift c) := by
  rw [← h.ticks] at within ⊢
  rw [RegsB.shift_within h.running within]
  have same : ({ r.load with sbitCnt := r.load.sbitCnt + 1 } : RegsB).load = _ := RegsB.load_of_running h.running
  exact ⟨same.symm ▸ h.bits, same.symm ▸ h.word, same.symm ▸ rfl⟩

theorem HoldsBits.shift_last (h : HoldsBits (n + 1) y j r)
    (last : j + 1 = c.sbitTicks) : HoldsBits n (y <<< (1 : Nat)) 0 (r.load.shift c) := by
  have bits := h.bits
  have fewer : (r.load.srCnt - 1#4).toNat = n + 1 := by bv_omega
  have running : r.load.srCnt - 1#4 ≠ 0#4 := by
    intro zero
    rw [zero] at fewer
    cases fewer
  rw [← h.ticks] at last
  rw [RegsB.shift_last h.running last, ← h.word]
  have same := RegsB.load_of_running (r := { r.load with
    sbitCnt := 0, sr := r.load.sr <<< (1 : Nat), srCnt := r.load.srCnt - 1#4 }) running
  exact ⟨same.symm ▸ fewer, same.symm ▸ rfl, same.symm ▸ rfl⟩

/-- A Backend B block whose transport runs, with bits in its serializer as `HoldsBits` says. -/
structure Serializing (n : Nat) (y : Byte) (j : Nat) (s : State) : Prop where
  inv : BlockInv s
  backend : s.cfg.backend = .B
  busy : s.busy = true
  built : s.buildCnt = 0
  holds : HoldsBits n y j s.b

/-- A tick of a block that is serializing: the level of the head bit, and the serializer's end of tick (R232, R236). -/
theorem Serializing.answers (h : Serializing n y j s) (noReset : (nextInput s).rst = false) :
    ∃ t r, step s = .next t ∧ HoldsBits n y j r ∧ t = { beginTick s with dout := y.getLsbD 7, b := r.load.shift s.cfg } := by
  have waits : sequencer (beginTick s) = beginTick s := by
    simp [sequencer, h.busy, h.built, h.backend, sequencerB, h.holds.not_spiTc]
  have acts : step s = agents (nextInput s).stall (beginTick s) := by
    have busy : (sequencer (beginTick s)).busy = true := by rw [waits]; exact h.busy
    exact (tick_busy noReset busy).trans (by rw [waits])
  rw [agents_eq_B (s := beginTick s) h.backend _
    fun k hk => streamIndex_lt (s := s) h.inv.strip ((h.inv.onB h.backend).run h.busy h.built).length hk] at acts
  split at acts
  · next sends =>
    have empty : s.b.drFull = false := by
      simp only [sending, txe, Bool.and_eq_true, Bool.not_eq_true'] at sends
      exact sends.2
    have holds := h.holds.send empty (streamByte (beginTick s))
    exact ⟨_, _, acts, holds, by rw [← holds.doutB]; rfl⟩
  · exact ⟨_, _, acts, h.holds, by rw [← h.holds.doutB]; rfl⟩

/-- What of `Serializing` a tick keeps whatever its registers do. -/
theorem Serializing.of_step {n' j' : Nat} {y' : Byte} (h : Serializing n y j s) (e : step s = .next t)
    (ht : t = { beginTick s with dout := y.getLsbD 7, b := r }) (holds : HoldsBits n' y' j' r) : Serializing n' y' j' t where
  inv := invariantKept s t h.inv e
  backend := by rw [ht]; exact h.backend
  busy := by rw [ht]; exact h.busy
  built := by rw [ht]; exact h.built
  holds := by rw [ht]; exact holds

/-- The rest `d` of the head bit's ticks carries the head bit. -/
theorem Serializing.bit {d : Nat} (h : Serializing n y j s) (rest : j + d = s.cfg.sbitTicks) (positive : 0 < d)
    (noReset : noRst d s) :
    lineTrace d s = List.replicate d (y.getLsbD 7) ∧
      ∀ m, n = m + 1 → ∃ t, after d s = .next t ∧ t.cfg = s.cfg ∧ Serializing m (y <<< (1 : Nat)) 0 t := by
  induction d generalizing s j with
  | zero => omega
  | succ d ih =>
    obtain ⟨t, r, e, holds, ht⟩ := h.answers (nextInput_rst_of_noRst noReset)
    have level : t.dout = y.getLsbD 7 := by rw [ht]
    have cfg : t.cfg = s.cfg := by rw [ht]; rfl
    rw [lineTrace_succ e, level, List.replicate_succ]
    simp only [after_succ, e, Result.andThen_next]
    by_cases last : d = 0
    · subst last
      refine ⟨rfl, fun m hm => ⟨t, rfl, cfg, h.of_step e ht ?_⟩⟩
      subst hm
      exact holds.shift_last rest
    · obtain ⟨line, goes_on⟩ := ih (h.of_step e ht (holds.shift_within (by omega))) (by rw [cfg]; omega) (by omega)
        (noRst_of_step e noReset)
      exact ⟨by rw [line], fun m hm => by rw [← cfg]; exact goes_on m hm⟩

/-- The line of the first `n` bits of `y`, bit 7 first, each for `ticks` ticks (R116). -/
def bitsLine (ticks : Nat) : Nat → Byte → List Bool
  | 0, _ => []
  | n + 1, y => List.replicate ticks (y.getLsbD 7) ++ bitsLine ticks n (y <<< (1 : Nat))

/-- The bits left to send go on the line one after another: induction on how many. -/
theorem Serializing.bits (h : Serializing n y 0 s) (noReset : noRst ((n + 1) * s.cfg.sbitTicks) s) :
    lineTrace ((n + 1) * s.cfg.sbitTicks) s = bitsLine s.cfg.sbitTicks (n + 1) y := by
  have positive : 0 < s.cfg.sbitTicks := by
    have := h.inv.legal
    rw [Config.legal_iff] at this
    omega
  induction n generalizing s y with
  | zero =>
    rw [Nat.zero_add, Nat.one_mul] at noReset ⊢
    rw [(h.bit (Nat.zero_add _) positive noReset).1]
    simp [bitsLine]
  | succ n ih =>
    rw [Nat.succ_mul, Nat.add_comm] at noReset ⊢
    obtain ⟨line, goes_on⟩ := h.bit (Nat.zero_add _) positive (noRst_of_le noReset (Nat.le_add_right _ _))
    obtain ⟨t, e, cfg, next⟩ := goes_on n rfl
    have noReset_t := noRst_of_after e noReset
    rw [lineTrace_add e, line, bitsLine]
    rw [← cfg] at noReset_t positive ⊢
    rw [ih next noReset_t positive]

/-- The eight bits of a byte are the windows of its two nibbles (R111, R116). -/
theorem bitsLine_eight (c : Config) (y : Byte) :
    bitsLine c.sbitTicks 8 y = windowLine c (y.extractLsb' 4 4) ++ windowLine c (y.extractLsb' 0 4) := by
  simp [bitsLine, windowLine]

/-- Settles O41: the serializer loads the waiting byte in the first tick and has its eight bits to send. -/
theorem byteOnTheLine : Obligations.ByteOnTheLine := by
  intro s h backend busy built idle full noReset
  have loaded : s.b.load = { s.b with sr := s.b.dr, srCnt := 8#4, sbitCnt := 0, drFull := false } := by
    rw [RegsB.load, if_pos ⟨idle, full⟩]
  have holds : HoldsBits 7 s.b.dr 0 s.b := ⟨by rw [loaded]; rfl, by rw [loaded], by rw [loaded]⟩
  rw [← bitsLine_eight]
  exact Serializing.bits ⟨h, backend, busy, built, holds⟩ noReset

end Sys2Proof.Machine
end

section
/-! PROOFS. The strip-state commands (40_strip_commands.md): what each writes and answers, and what it leaves alone. -/

namespace Sys2Proof.Machine

variable {s t : State}

/-! ### The live pixels and the responses (R69, R96, R135, R137) -/

/-- Of a count in range every pixel below it is live; `liveCount_eq` says it of R25. -/
theorem liveCount_of_bounded (bounded : s.strip.count.toNat ≤ s.cfg.maxLeds) : liveCount s = s.strip.count.toNat :=
  if_pos bounded

theorem indexLive_iff (bounded : s.strip.count.toNat ≤ s.cfg.maxLeds) (i : Half) :
    indexLive i s = true ↔ i.toNat < s.strip.count.toNat := by
  rw [indexLive, liveCount_of_bounded bounded, decide_eq_true_eq]

/-- A null handle or an index from `count` on names no live pixel (R134, R135). -/
theorem not_indexLive (bounded : s.strip.count.toNat ≤ s.cfg.maxLeds) {h : Bool} {i : Half}
    (outside : h = false ∨ s.strip.count.toNat ≤ i.toNat) : ¬ (h = true ∧ indexLive i s = true) := by
  rw [indexLive_iff bounded]
  rintro ⟨rfl, inside⟩
  rcases outside with null | beyond
  · cases null
  · omega

/-- `get_pixel` always answers, and writes the response alone: the stored colour of a live pixel, or black (R135). -/
theorem exec_getPixel_eq (h : Bool) (i : Half) (s : State) : exec (.getPixel h i) s = .next { s with
    rsp := some (if h = true ∧ indexLive i s = true then rspOfPixel (readPix s i.toNat) else 0#24) } := by
  simp only [exec, execGetPixel, respond, Bool.and_eq_true]
  split <;> rfl

theorem rspOfPixel_red (p : Pixel) : (rspOfPixel p).extractLsb' 16 8 = p.r :=
  (BitVec.extractLsb'_append_eq_of_le (by decide)).trans (extract_upper p.r p.g)

theorem rspOfPixel_green (p : Pixel) : (rspOfPixel p).extractLsb' 8 8 = p.g :=
  (BitVec.extractLsb'_append_eq_of_le (by decide)).trans
    ((extract_lower p.r p.g (by decide)).trans BitVec.extractLsb'_eq_self)

theorem rspOfPixel_blue (p : Pixel) : (rspOfPixel p).extractLsb' 0 8 = p.b :=
  (extract_lower (p.r ++ p.g) p.b (by decide)).trans BitVec.extractLsb'_eq_self

theorem rspOfByte_toNat (v : Byte) : (rspOfByte v).toNat = v.toNat := BitVec.toNat_setWidth_of_le (by decide)

/-! ### `init` (R131, R132, R138) -/

/-- `TransportSetup` writes the registers of the block's own transport and nothing else (R132). -/
theorem transportSetup_eq (s : State) : transportSetup s = { s with
    a := if s.cfg.backend = .A then s.a.setup s.cfg else s.a
    b := if s.cfg.backend = .B then s.b.setup else s.b } := by
  cases backend : s.cfg.backend <;> simp [transportSetup, backend]

/-- What a binding `init` writes (R131, R132). -/
theorem bindStrip_eq (n : Half) (s : State) : bindStrip n s = { s with
    strip := { inited := true, count := n, brightness := s.cfg.defaultBrightness, pix := (clearPix n.toNat s).strip.pix }
    a := if s.cfg.backend = .A then s.a.setup s.cfg else s.a
    b := if s.cfg.backend = .B then s.b.setup else s.b } := by
  rw [bindStrip, transportSetup_eq]
  rfl

/-- Invalid operands make `init` a no-op, whatever the state (R131). -/
theorem exec_init_of_not_valid {h st : Bool} {n : Half} (invalid : ¬ initValid h st n s = true) :
    exec (.init h st n) s = .next s := if_neg invalid

/-- A valid `init` of a free strip on a block that is not busy binds it (R131). -/
theorem exec_init_of_free {h st : Bool} {n : Half} (valid : initValid h st n s = true) (free : s.strip.inited = false)
    (idle : s.busy = false) : exec (.init h st n) s = .next (bindStrip n s) := by
  simp [exec, execInit, valid, free, idle]

/-- A valid `init` of an initialised strip is the second one (R138). -/
theorem exec_init_of_inited {h st : Bool} {n : Half} (valid : initValid h st n s = true) (inited : s.strip.inited = true) :
    exec (.init h st n) s = secondInit n s := by
  simp only [exec, execInit, valid, inited, if_true]

/-- Settles O5: valid operands bind the strip, as `bindStrip_eq` writes it out; any of the four faults of R131 fails validation. -/
theorem initBindsTheStrip : Obligations.InitBindsTheStrip := by
  refine ⟨fun s n free idle memory positive bounded => ⟨(clearPix n.toNat s).strip.pix, clearPix_readPix memory n.toNat, ?_⟩,
    fun s h st n bad => exec_init_of_not_valid fun valid => ?_⟩
  · rw [exec_init_of_free (initValid_iff.mpr ⟨rfl, rfl, positive, bounded⟩) free idle, bindStrip_eq]
    rfl
  · obtain ⟨rfl, rfl, positive, bounded⟩ := initValid_iff.mp valid
    rcases bad with null | absent | rfl | above
    · cases null
    · cases absent
    · exact absurd positive (by decide)
    · omega

/-- Settles O6: the second `init` goes by `REINIT`, and binding does not look at whether the strip was initialised. (`secondInit` itself
is a name of the model's.) -/
theorem secondInit_by_reinit : Obligations.SecondInit := by
  intro s n inited positive bounded
  have valid : initValid true true n s = true := initValid_iff.mpr ⟨rfl, rfl, positive, bounded⟩
  rw [exec_init_of_inited valid inited, secondInit]
  refine ⟨fun reinit => by rw [reinit], fun reinit => by rw [reinit]; rfl, fun reinit idle => ?_⟩
  rw [exec_init_of_free (s := { s with strip := { s.strip with inited := false } }) valid rfl idle, bindStrip_eq, reinit, idle,
    bindStrip_eq]
  rfl

/-! ### `clear` (R133) -/

theorem exec_clear_eq (h : Bool) (s : State) :
    exec (.clear h) s = .next (if h = true then clearPix (liveCount s) s else s) := by
  cases h <;> rfl

/-- A block write of nothing leaves the pixels as they are. -/
theorem clearPix_zero (s : State) : clearPix 0 s = s := by
  simp [clearPix, Store.fill, Store.listed]

/-- After a `clear` every index answers black: the live ones were blackened, the others always do (R133, R135). -/
theorem exec_getPixel_clearPix (memory : Memory.wf s = true) (i : Half) :
    exec (.getPixel true i) (clearPix (liveCount s) s) = .next { clearPix (liveCount s) s with rsp := some 0#24 } := by
  rw [exec_getPixel_eq, clearPix_readPix memory]
  split
  · next live =>
    have inside : i.toNat < liveCount s := of_decide_eq_true live.2
    rw [if_pos inside]
    rfl
  · rfl

/-- Settles O7: a null handle leaves the pixels, a valid one clears as many as `count` says. -/
theorem clearBlackens : Obligations.ClearBlackens := by
  intro s h memory bounded
  cases h with
  | false => exact ⟨s.strip.pix, rfl, fun _ => rfl, nofun, nofun⟩
  | true =>
    refine ⟨(clearPix (liveCount s) s).strip.pix, rfl, nofun, fun _ i => ?_, fun _ => exec_getPixel_clearPix memory⟩
    rw [← liveCount_of_bounded bounded]
    exact clearPix_readPix memory (liveCount s) i

/-! ### The accessors of a pixel and of the brightness (R134 to R137) -/

/-- Settles O8 from `exec_setPixel_eq` and what a write makes of the pixels. -/
theorem setPixelWritesOne : Obligations.SetPixelWritesOne := by
  intro s h i r g b memory bounded
  rw [exec_setPixel_eq]
  refine ⟨fun valid inside => ⟨_, by rw [if_pos ⟨valid, (indexLive_iff bounded i).mpr inside⟩]; rfl, fun k => ?_⟩,
    fun outside => by rw [if_neg (not_indexLive bounded outside)]⟩
  exact writePix_readPix memory i.toNat k _

/-- Settles O9 from `exec_getPixel_eq` and the layout of the response. -/
theorem getPixelAnswers : Obligations.GetPixelAnswers := by
  intro s h i bounded
  rw [exec_getPixel_eq]
  refine ⟨fun valid inside => ⟨rspOfPixel (readPix s i.toNat), ?_, rspOfPixel_red _, rspOfPixel_green _, rspOfPixel_blue _⟩,
    fun outside => by rw [if_neg (not_indexLive bounded outside)]⟩
  rw [if_pos ⟨valid, (indexLive_iff bounded i).mpr inside⟩]

/-- Settles O10: with either handle the accessor reduces to its write or its response, which is the brightness widened. -/
theorem brightnessAccessors : Obligations.BrightnessAccessors :=
  fun s _ => ⟨rfl, rfl, ⟨rspOfByte s.strip.brightness, rfl, rspOfByte_toNat _⟩, rfl⟩

/-! ### The strip that is not initialised (R139) -/

/-- A strip that is not initialised has no live pixel (R25 (b)). -/
theorem liveCount_of_free (strip : StripOk s) (free : s.strip.inited = false) : liveCount s = 0 := by
  rw [liveCount_eq strip, strip.fresh free]
  rfl

/-- Settles O12: no pixel is live, so all that asks for one does nothing or answers black. -/
theorem uninitialisedTable : Obligations.UninitialisedTable := by
  intro s h st n i r g b v strip free idle
  have none_live : liveCount s = 0 := liveCount_of_free strip free
  have dead : ¬ (h = true ∧ indexLive i s = true) := by simp [indexLive, none_live]
  refine ⟨?_, ?_, ?_, ?_, rfl, rfl, ?_, ?_⟩
  · by_cases valid : initValid h st n s = true
    · exact ⟨_, exec_init_of_free valid free idle, .inr ⟨bindStrip_inited n s, bindStrip_count n s⟩⟩
    · exact ⟨s, exec_init_of_not_valid valid, .inl rfl⟩
  · rw [exec_clear_eq, none_live, clearPix_zero, ite_self]
  · rw [exec_setPixel_eq, if_neg dead]
  · rw [exec_getPixel_eq, if_neg dead]
  · simp [exec, execShow, showValid, none_live, noop]
  · simp [exec, execReset, free, noop]

/-! ### What the operations have in common (R130) -/

theorem isCommand_of_isStripOp {i : Instr} (op : isStripOp i = true) : i.isCommand = true := by
  cases i with
  | init | clear | setPixel | getPixel | setBrightness | getBrightness => rfl
  | _ => cases op

/-- A strip-state operation that answers a next state writes the strip state and the response alone, or is an `init` that binds. -/
theorem exec_stripOp_next {i : Instr} (op : isStripOp i = true) (e : exec i s = .next t) :
    t = { s with strip := t.strip, rsp := t.rsp } ∨ isInit i = true ∧ ∃ n, t = bindStrip n s := by
  cases i with
  | init h st n => exact (execInit_next e).imp (fun same => by rw [same]) fun binds => ⟨rfl, n, binds.1⟩
  | clear h | setBrightness h v | getBrightness h => left; cases h <;> cases e <;> rfl
  | setPixel h i r g b =>
    left
    rw [exec_setPixel_eq] at e
    split at e <;> cases e <;> rfl
  | getPixel h i => left; rw [exec_getPixel_eq] at e; cases e; rfl
  | _ => cases op

/-- Settles O13: the operations by `exec_stripOp_next`; with a null handle each fails its first test. -/
theorem operationsInCommon : Obligations.OperationsInCommon := by
  refine ⟨fun i s op => ⟨exec_no_fault (isCommand_of_isStripOp op) s, fun t e => ?_⟩,
    fun s st n i r g b v => ⟨rfl, rfl, rfl, rfl, rfl, rfl, rfl, rfl⟩⟩
  rcases exec_stripOp_next op e with kept | ⟨binding, n, rfl⟩
  · rw [kept]
    exact ⟨rfl, rfl, rfl, rfl, rfl, fun _ => rfl, fun _ => rfl, fun _ => ⟨rfl, rfl⟩⟩
  · simp [binding, readFba, readFbb]

end Sys2Proof.Machine
end

section
/-! PROOFS. Brightness scaling and the validation of `show` (41_frame_encoder.md): the laws of `Scale`, the dark frame, the calls that
write nothing and those that have no continuation. -/

namespace Sys2Proof.Machine

variable {s : State}

/-! ### Brightness scaling (R162, R163, R164) -/

/-- `Scale` is exact: the quotient fits the byte (R162). -/
theorem scale_toNat (v b : Byte) : (scale v b).toNat = (v.toNat * b.toNat + 127) / 255 := by
  have product : v.toNat * b.toNat ≤ 255 * 255 := Nat.mul_le_mul (Nat.le_of_lt_succ v.isLt) (Nat.le_of_lt_succ b.isLt)
  rw [scale, BitVec.toNat_ofNat, Nat.mod_eq_of_lt]
  omega

theorem scale_comm (v b : Byte) : scale v b = scale b v := by
  rw [scale, scale, Nat.mul_comm]

/-- Full brightness leaves a channel as it is: the 127 that rounds is less than the divisor. -/
theorem scale_full (v : Byte) : scale v 255#8 = v := by
  refine BitVec.eq_of_toNat_eq ?_
  rw [scale_toNat, show (255#8 : Byte).toNat = 255 from rfl]
  omega

theorem scale_zero (v : Byte) : scale v 0#8 = 0#8 := by
  rw [scale, BitVec.toNat_zero, Nat.mul_zero]

theorem zero_scale (b : Byte) : scale 0#8 b = 0#8 := by rw [scale_comm, scale_zero]

/-- Scaling never brightens: `v·b ≤ 255·v`. -/
theorem scale_le_left (v b : Byte) : scale v b ≤ v := by
  have product : v.toNat * b.toNat ≤ v.toNat * 255 := Nat.mul_le_mul_left _ (Nat.le_of_lt_succ b.isLt)
  rw [BitVec.le_def, scale_toNat]
  omega

/-- `Scale(v, b)` is the integer nearest to `v·b/255`, on both sides (R164 (f)). -/
theorem scale_nearest (v b : Byte) : 2 * v.toNat * b.toNat < 2 * 255 * (scale v b).toNat + 255 ∧
    2 * 255 * (scale v b).toNat < 2 * v.toNat * b.toNat + 255 := by
  rw [scale_toNat, Nat.mul_assoc 2 v.toNat]
  omega

/-- Settles O22: each law from the exact quotient `scale_toNat`. -/
theorem scaleLaws : Obligations.ScaleLaws := fun v b =>
  ⟨scale_toNat v b, scale_full v, scale_zero v, zero_scale b, scale_comm v b, scale_le_left v b,
    scale_comm v b ▸ scale_le_left b v, (scale_nearest v b).1, (scale_nearest v b).2, rfl, rfl⟩

/-- The shortcut at full brightness changes no result (R163). -/
theorem scaled_eq (b : Byte) (p : Pixel) : scaled b p = { r := scale p.r b, g := scale p.g b, b := scale p.b b } := by
  by_cases full : b = 255#8
  · rw [scaled, if_pos full, full, scale_full, scale_full, scale_full]
  · exact if_neg full

/-- Settles O23: the shortcut's two arms, and `scaled_eq` for both. -/
theorem scalingOfAPixel : Obligations.ScalingOfAPixel := fun b p => ⟨fun full => if_pos full, fun _ => scaled_eq b p, scaled_eq b p⟩

/-! ### The dark frame (R170) -/

theorem scaled_dark (p : Pixel) : scaled 0#8 p = Pixel.zero := by
  rw [scaled_eq, scale_zero, scale_zero, scale_zero, Pixel.zero]

theorem pixelBits_dark (p : Pixel) : pixelBits 0#8 p = List.replicate 24 false := by
  rw [pixelBits, scaled_dark]
  decide

/-- At brightness 0 every protocol bit of the frame is a logical 0 (R170). -/
theorem frameBits_dark (n : Nat) (p : Store Pixel) : ∀ bit ∈ frameBits n 0#8 p, bit = false := by
  intro bit sent
  obtain ⟨i, -, inPixel⟩ := List.mem_flatMap.mp sent
  rw [pixelBits_dark] at inPixel
  exact List.eq_of_mem_replicate inPixel

theorem shownBits_getD_dark (dark : s.strip.brightness = 0#8) {m : Nat} (hm : m < 24 * s.strip.count.toNat) :
    (shownBits s).getD m false = false := by
  rw [List.getD_eq_getElem _ _ (by simpa using hm)]
  refine frameBits_dark s.strip.count.toNat s.strip.pix _ ?_
  rw [← dark]
  exact List.getElem_mem _

/-- Settles O26: a data slot is the code of the frame's bits, which are all 0. -/
theorem zeroBrightnessFrame : Obligations.ZeroBrightnessFrame := by
  intro s h idle count dark
  refine ⟨beginShow s, exec_showFrame_eq h idle count, beginShow_busy s, fun backend k first last => ?_,
    fun backend k first last => ?_⟩
  · obtain ⟨m, rfl⟩ := Nat.exists_eq_add_of_le first
    rw [readFba_beginShow_data backend h.memory (by omega), shownBits_getD_dark dark (by omega)]
    rfl
  · obtain ⟨q, rfl⟩ := Nat.exists_eq_add_of_le first
    rw [readFbb_beginShow_data backend h.memory (by omega), shownBits_getD_dark dark (by omega),
      shownBits_getD_dark dark (by omega)]
    rfl

/-! ### Validation and overlap (R161, R171, R324) -/

/-- A `show` passes validation with a handle and a count from 1 to `MAX_LEDS`, and not otherwise (R160, R161). -/
theorem showValid_iff {h : Bool} : showValid h s = true ↔
    h = true ∧ 1 ≤ s.strip.count.toNat ∧ s.strip.count.toNat ≤ s.cfg.maxLeds := by
  rw [showValid, Bool.and_eq_true, decide_eq_true_eq, liveCount]
  refine and_congr_right fun _ => ?_
  split <;> omega

/-- A `show` that fails validation is a no-op, busy or not (R161). -/
theorem exec_showFrame_of_not_valid {h : Bool} (invalid : ¬ showValid h s = true) : exec (.showFrame h) s = .next s :=
  if_neg invalid

/-- Settles O18: each of the three faults fails validation. -/
theorem showValidation : Obligations.ShowValidation := by
  intro s h bad
  refine exec_showFrame_of_not_valid fun valid => ?_
  obtain ⟨rfl, positive, bounded⟩ := showValid_iff.mp valid
  rcases bad with null | empty | above
  · cases null
  · rw [empty] at positive
    exact absurd positive (by decide)
  · omega

/-- Settles O17: each call passes its own test and then meets `busy`. -/
theorem overlapIsRefused : Obligations.OverlapIsRefused := by
  intro s n busy
  refine ⟨fun positive bounded => ?_, fun inited => ?_, fun free positive bounded => ?_⟩
  · have valid : showValid true s = true := showValid_iff.mpr ⟨rfl, positive, bounded⟩
    simp [exec, execShow, valid, busy]
  · simp [exec, execReset, inited, busy]
  · have valid : initValid true true n s = true := initValid_iff.mpr ⟨rfl, rfl, positive, bounded⟩
    simp [exec, execInit, valid, free, busy]

end Sys2Proof.Machine
end

section
/-! PROOFS. The Backend A transport (42_transport_a.md): generator and reader tick by tick, the sequencer's moves, and the runs they make. -/

namespace Sys2Proof.Machine

variable {s t u : State}

/-! ### The words the transports take (log entry 2) -/

/-- The agents of a Backend B block, one after the other (R236). -/
theorem agents_B (backend : s.cfg.backend = .B) (stall : Bool) :
    agents stall s = (byteLoop s).andThen fun v => serialize (loadB v) := by
  rw [agents, backend]; rfl

/-- The reader runs the duty it moves where that duty is a code. -/
theorem reader_code {i : Instr} (en : s.a.dmaEn = true) (req : s.a.dmaReq = true) (left : s.a.dmaRem ≠ 0#16)
    (inside : s.a.dmaPtr.toNat < s.cfg.capA) (code : decodeDuty s.cfg (readFba s s.a.dmaPtr.toNat) = .ok i) :
    reader false s = exec i s := by
  simp [reader, takeDuty, en, req, left, inside, code]

/-- The byte loop runs the byte it writes where that byte is a code. -/
theorem byteLoop_code {k : Nat} {i : Instr} (sends : sending s = true) (index : streamIndex s = some k)
    (inside : k < s.cfg.capB) (code : decodeByte s.cfg (readFbb s k) = .ok i) : byteLoop s = exec i s := by
  simp [byteLoop, takeByte, sends, index, inside, code]

/-- In a reset block the byte loop runs the zero byte. -/
theorem byteLoop_guard (sends : sending s = true) (index : streamIndex s = none) : byteLoop s = exec .bGuard s := by
  simp [byteLoop, takeByte, decodeByte, sends, index]

/-- The serializer runs the 4-bit code at the head of the shift register at the start of a window. -/
theorem serialize_code {i : Instr} (start : windowStart s.b = true)
    (code : decodeNibble s.cfg (s.b.sr.extractLsb' 4 4) = .ok i) : serialize s = exec i s := by
  simp [serialize, takeNibble, start, code]

/-- Settles O51: such a tick is the sequencer's and the agents', and the agent that takes the code runs it. -/
theorem stepRunsTheWireCode : Obligations.StepRunsTheWireCode := by
  intro s i noReset nothing
  rw [step_of_not_accepted noReset nothing]
  refine ⟨?_, ?_, ?_, ?_⟩
  · intro backend u en req left flows inside code
    rw [agents_eq_A (by simpa using backend), flows, reader_code en req left inside code]
  · intro backend u sends k index inside code
    rw [agents_B (by simpa using backend), byteLoop_code sends index inside code]
  · intro backend u sends index
    rw [agents_B (by simpa using backend), byteLoop_guard sends index]
  · intro backend v loops start code
    rw [agents_B (by simpa using backend), loops, Result.andThen_next, serialize_code start code]

/-- Settles O28, each case a branch of `reader_eq`. -/
theorem readerStep : Obligations.ReaderStep := by
  intro s stall backend
  rw [reader_eq backend]
  refine ⟨fun off => ?_, fun en req done => ?_, fun en req left stalls => ?_, fun en req left flows inside => ?_⟩
  · exact if_neg fun on => by rcases off with e | e <;> simp [e] at on
  · rw [if_pos ⟨en, req⟩, if_pos done]
  · rw [if_pos ⟨en, req⟩, if_neg left, if_pos stalls]
  · rw [if_pos ⟨en, req⟩, if_neg left, if_neg (by simp [flows]), if_pos inside, moveDuty, RegsA.transfer_eq]

/-! ### Generator and reader on the registers -/

/-- The generator's boundary actions, where the tick is a boundary (R195). -/
def RegsA.generate (r : RegsA) : RegsA := if atBoundary r then r.boundary else r

/-- The reader's step, of a pointer inside the buffer (R198). -/
def RegsA.read (fba : Store Duty) (stall : Bool) (r : RegsA) : RegsA :=
  if r.dmaEn = true ∧ r.dmaReq = true then
    if r.dmaRem = 0#16 then { r with dmaReq := false }
    else if stall = true then r
    else r.transfer (Store.read 0#16 fba r.dmaPtr.toNat)
  else r

/-- The registers a tick's line is taken from: after the generator and the reader, before the counters (R202 (2) to (4)). -/
def RegsA.transport (fba : Store Duty) (stall : Bool) (r : RegsA) : RegsA := r.generate.read fba stall

section
variable (fba : Store Duty) (stall : Bool) (r : RegsA)

@[simp] theorem RegsA.transport_tstate : (r.transport fba stall).tstate = r.tstate := by
  unfold transport read generate; (repeat' split) <;> rfl
@[simp] theorem RegsA.transport_tphase : (r.transport fba stall).tphase = r.tphase := by
  unfold transport read generate; (repeat' split) <;> rfl
@[simp] theorem RegsA.transport_pinMode : (r.transport fba stall).pinMode = r.pinMode := by
  unfold transport read generate; (repeat' split) <;> rfl
@[simp] theorem RegsA.transport_period : (r.transport fba stall).period = r.period := by
  unfold transport read generate; (repeat' split) <;> rfl
@[simp] theorem RegsA.transport_cnt : (r.transport fba stall).cnt = r.cnt := by
  unfold transport read generate; (repeat' split) <;> rfl
@[simp] theorem RegsA.transport_pwmEn : (r.transport fba stall).pwmEn = r.pwmEn := by
  unfold transport read generate; (repeat' split) <;> rfl
@[simp] theorem RegsA.transport_oe : (r.transport fba stall).oe = r.oe := by
  unfold transport read generate; (repeat' split) <;> rfl
@[simp] theorem RegsA.transport_dmaEn : (r.transport fba stall).dmaEn = r.dmaEn := by
  unfold transport read generate; (repeat' split) <;> rfl

/-- The active duty is latched at a boundary and nowhere else (R196). -/
@[simp] theorem RegsA.transport_ccrAct :
    (r.transport fba stall).ccrAct = if atBoundary r = true then r.ccrPre else r.ccrAct := by
  unfold transport read generate; (repeat' split) <;> rfl

/-- `uif` is set at a boundary and nowhere else (R195). -/
@[simp] theorem RegsA.transport_uif : (r.transport fba stall).uif = if atBoundary r = true then true else r.uif := by
  unfold transport read generate; (repeat' split) <;> rfl

end

section
variable {fba : Store Duty} {stall : Bool} {r : RegsA}

theorem RegsA.generate_of_boundary (boundary : atBoundary r = true) : r.generate = r.boundary := if_pos boundary

theorem RegsA.generate_of_inside (inside : atBoundary r = false) : r.generate = r := if_neg (by simp [inside])

/-- Without a request the reader does nothing. -/
theorem RegsA.read_of_no_request (none : r.dmaEn = false ∨ r.dmaReq = false) : r.read fba stall = r :=
  if_neg fun on => by rcases none with e | e <;> simp [e] at on

/-- With nothing left the request is dropped. -/
theorem RegsA.read_of_done (en : r.dmaEn = true) (req : r.dmaReq = true) (done : r.dmaRem = 0#16) :
    r.read fba stall = { r with dmaReq := false } := by
  rw [read, if_pos ⟨en, req⟩, if_pos done]

/-- Stalled with elements left, the reader does nothing (R205). -/
theorem RegsA.read_of_stall (left : r.dmaRem ≠ 0#16) : r.read fba true = r := by
  rw [read, if_neg left, if_pos rfl, ite_self]

/-- With elements left and no stall, a request moves one. -/
theorem RegsA.read_of_element (en : r.dmaEn = true) (req : r.dmaReq = true) (left : r.dmaRem ≠ 0#16) :
    r.read fba false = r.transfer (Store.read 0#16 fba r.dmaPtr.toNat) := by
  rw [read, if_pos ⟨en, req⟩, if_neg left, if_neg Bool.false_ne_true]

/-- At a boundary the generator latches the duty, sets `uif` and raises a request of an enabled reader (R195 to R197). -/
theorem RegsA.generate_eq (r : RegsA) : r.generate = { r with
    ccrAct := if atBoundary r = true then r.ccrPre else r.ccrAct
    uif := if atBoundary r = true then true else r.uif
    dmaReq := if atBoundary r = true then r.dmaReq || r.dmaEn else r.dmaReq } := by
  unfold generate
  split <;> rfl

/-- Stalled with elements left, only the generator acts. -/
theorem RegsA.transport_of_stall (left : r.dmaRem ≠ 0#16) : r.transport fba true = r.generate :=
  read_of_stall (by rw [generate_eq]; exact left)

/-- A stalled reader does not move. -/
theorem RegsA.transport_reader_of_stall (left : r.dmaRem ≠ 0#16) : (r.transport fba true).ccrPre = r.ccrPre ∧
    (r.transport fba true).dmaPtr = r.dmaPtr ∧ (r.transport fba true).dmaRem = r.dmaRem := by
  rw [transport_of_stall left, generate_eq]
  exact ⟨rfl, rfl, rfl⟩

/-- With no stall an enabled reader leaves no request behind. -/
theorem RegsA.transport_dmaReq (en : r.dmaEn = true) : (r.transport fba false).dmaReq = false := by
  have en' : r.generate.dmaEn = true := by rw [generate_eq]; exact en
  rw [transport]
  by_cases req : r.generate.dmaReq = true
  · by_cases done : r.generate.dmaRem = 0#16
    · rw [read_of_done en' req done]
    · rw [read_of_element en' req done, transfer_dmaReq]
  · rw [read_of_no_request (.inr (by simpa using req))]
    simpa using req

/-- Generator and reader off, nothing happens. -/
theorem QuietA.transport (quiet : QuietA r) : r.transport fba stall = r := by
  rw [RegsA.transport, RegsA.generate_of_inside (by simp [atBoundary, quiet.pwm]), RegsA.read_of_no_request (.inl quiet.en)]

/-- With the generator on the pin the line is high while the counter is below the active duty (R41). -/
theorem doutA_of_on (pin : r.pinMode = .pwm) (oe : r.oe = true) (on : r.pwmEn = true) :
    doutA r = decide (r.cnt < r.ccrAct) := by simp [doutA, pin, oe, on]

/-- With the generator off the line is low (R41). -/
theorem doutA_of_off (off : r.pwmEn = false) : doutA r = false := by simp [doutA, off]

theorem RegsA.count_of_on (on : r.pwmEn = true) :
    r.count = { r with cnt := BitVec.ofNat 16 ((r.cnt.toNat + 1) % r.period.toNat) } := if_pos on

/-- With the generator off the counter stands. -/
theorem RegsA.count_of_off (off : r.pwmEn = false) : r.count = r := if_neg (by simp [off])

end

/-- The agents of a Backend A block, where they answer, do to its registers what `RegsA.transport` and the counters do. -/
theorem agentsA_next {stall : Bool} (backend : s.cfg.backend = .A) (e : agents stall s = .next t) :
    t = { s with
      dout := doutA (s.a.transport s.fba stall), a := (s.a.transport s.fba stall).count.settleDown } := by
  have generates : generator s = { s with a := s.a.generate } := by
    unfold generator RegsA.generate; split <;> rfl
  rw [agents_eq_A backend, generates, reader_eq (by exact backend), Result.andThen_eq_next] at e
  obtain ⟨v, reads, ends⟩ := e
  have moved : v = { s with a := s.a.transport s.fba stall } := by
    unfold RegsA.transport RegsA.read
    (repeat' split at reads) <;> cases reads <;> simp_all [moveDuty, readFba]
  cases ends
  rw [moved]
  rfl

/-- From the invariant they answer. -/
theorem BlockInv.agentsA_eq (h : BlockInv s) (backend : s.cfg.backend = .A) (stall : Bool) :
    Machine.agents stall s = .next { s with
      dout := doutA (s.a.transport s.fba stall), a := (s.a.transport s.fba stall).count.settleDown } := by
  obtain ⟨t, e, -⟩ := h.agents stall
  rw [e, agentsA_next backend e]

/-! ### What the sequencer and a command do to the generator's registers -/

/-- No move of the sequencer touches a duty register. -/
theorem sequencer_ccr (s : State) : (sequencer s).a.ccrPre = s.a.ccrPre ∧ (sequencer s).a.ccrAct = s.a.ccrAct := by
  unfold sequencer sequencerA sequencerB awaitBuild startTransport
  (repeat' split) <;> exact ⟨rfl, rfl⟩

theorem beginShow_a (s : State) : (beginShow s).a = if s.cfg.backend = .A ∧ s.cfg.buildTicks = 0 then
    RegsA.settle s.cfg { s.a with tphase := .preSettle } else s.a := by
  unfold beginShow
  by_cases immediate : s.cfg.buildTicks = 0 <;> simp [startTransport_eq, immediate]

theorem beginReset_a (s : State) : (beginReset s).a = if s.cfg.backend = .A then
    RegsA.settle s.cfg { s.a with tphase := .resetSettle } else s.a := by
  cases backend : s.cfg.backend <;> simp [beginReset, backend]

/-- A command other than `init` leaves the Backend A registers as they are, or begins a settle. -/
theorem exec_a {i : Instr} (command : i.isCommand = true) (other : isInit i = false) (e : exec i s = .next t) :
    t.a = s.a ∨ ∃ p, t.a = RegsA.settle s.cfg { s.a with tphase := p } := by
  cases i with
  | init => cases other
  | clear | setPixel | getPixel | setBrightness | getBrightness =>
    rcases exec_stripOp_next rfl e with kept | ⟨binds, -⟩
    · exact .inl (by rw [kept])
    · cases binds
  | showFrame h =>
    simp only [exec, execShow, noop] at e
    (repeat' split at e) <;> cases e
    · rw [beginShow_a]
      split
      · exact .inr ⟨_, rfl⟩
      · exact .inl rfl
    · exact .inl rfl
  | resetLine h =>
    simp only [exec, execReset, noop] at e
    (repeat' split at e) <;> cases e
    · rw [beginReset_a]
      split
      · exact .inr ⟨_, rfl⟩
      · exact .inl rfl
    · exact .inl rfl
  | reserved0 | reserved9 | reservedA | reservedB | reservedC | reservedD | reservedE | reservedF => cases e; exact .inl rfl
  | aGuard | aBit0 | aBit1 | bBit0 | bBit1 | bPair00 | bPair01 | bPair10 | bPair11 | bGuard => cases command

/-- The tick's agents latch the preload at a boundary (R196). -/
theorem agentsA_ccrAct {stall : Bool} (backend : s.cfg.backend = .A) (e : agents stall s = .next t) :
    t.a.ccrAct = if s.a.pwmEn = true ∧ s.a.cnt = 0#16 then s.a.ccrPre else s.a.ccrAct := by
  rw [agentsA_next backend e]
  simp [atBoundary]

/-- Settles O29: the agents latch, and neither the sequencer nor a command that binds nothing touches what they latch by. -/
theorem dutyLatching : Obligations.DutyLatching := by
  intro s t backend noReset noInit e
  obtain ⟨pre, act⟩ := sequencer_ccr (beginTick s)
  rcases step_cases e with ⟨reset, -⟩ | ⟨-, -, acts⟩ | ⟨-, -, i, u, accepted, command, runs, effect, acts⟩
  · rw [noReset] at reset; cases reset
  · rw [agentsA_ccrAct (by simpa using backend) acts, pre, act]
    rfl
  · have kept : u.a.pwmEn = (sequencer (beginTick s)).a.pwmEn ∧ u.a.cnt = (sequencer (beginTick s)).a.cnt ∧
        u.a.ccrPre = (sequencer (beginTick s)).a.ccrPre ∧ u.a.ccrAct = (sequencer (beginTick s)).a.ccrAct := by
      rcases exec_a command (noInit i accepted) runs with same | ⟨p, settles⟩
      · simp [same]
      · simp [settles]
    obtain ⟨pwm, cnt, pre', act'⟩ := kept
    rw [agentsA_ccrAct (by rw [effect.cfg_eq]; simpa using backend) acts, pwm, cnt, pre', act', pre, act]
    rfl

/-! ### The sequencer's state machine (R190) -/

/-- A block whose transport is idle is still idle after a command. -/
theorem CommandEffect.idle (effect : CommandEffect s t) (backend : s.cfg.backend = .A) (idle : s.a.tstate = .idle) :
    t.a.tstate = .idle := by
  cases effect with
  | same | response v | clear | pixel i p live | brightness v => exact idle
  | bind n => simp [bindStrip_eq, backend]
  | showing => rw [beginShow_a]; split <;> simp [idle]
  | latching => rw [beginReset_a]; split <;> simp [idle]

/-- In a tick only the sequencer moves `tstate`, and in `TRANSMITTING` nothing but the sequencer switches the generator. -/
theorem step_tstate (h : BlockInv s) (backend : s.cfg.backend = .A) (noReset : (nextInput s).rst = false)
    (e : step s = .next t) : t.a.tstate = (sequencer (beginTick s)).a.tstate ∧
      ((sequencer (beginTick s)).a.tstate = .transmitting → t.a.pwmEn = (sequencer (beginTick s)).a.pwmEn) := by
  have backend' : (sequencer (beginTick s)).cfg.backend = .A := by simpa using backend
  rcases step_cases e with ⟨reset, -⟩ | ⟨-, -, acts⟩ | ⟨-, ready, i, u, -, -, -, effect, acts⟩
  · rw [noReset] at reset; cases reset
  · rw [agentsA_next backend' acts]
    simp
  · have idle : (sequencer (beginTick s)).a.tstate = .idle :=
      ((h.beginTick.sequencer.onA backend').rest (.inl ready)).state
    rw [agentsA_next (by rw [effect.cfg_eq]; exact backend') acts, idle]
    simp [effect.idle backend' idle]

/-- The three moves of the sequencer that change `tstate` (R190, R192, R193, R201). -/
theorem sequencer_tstate (h : BlockInv s) (backend : s.cfg.backend = .A) (moved : (sequencer s).a.tstate ≠ s.a.tstate) :
    (s.a.tstate = .idle ∧ (sequencer s).a.tstate = .armed ∧ s.a.tphase = .preSettle ∧ s.a.settleCnt = 0#16) ∨
    (s.a.tstate = .armed ∧ (sequencer s).a.tstate = .transmitting ∧ (sequencer s).a.pwmEn = true) ∨
    (s.a.tstate = .transmitting ∧ (sequencer s).a.tstate = .idle ∧ s.a.tphase = .postSettle ∧ s.a.settleCnt = 0#16) := by
  cases busy : s.busy with
  | false => simp [sequencer, busy] at moved
  | true =>
    by_cases built : s.buildCnt = 0
    · have moves : sequencer s = sequencerA s := by simp [sequencer, busy, built, backend]
      rw [moves] at moved ⊢
      cases (h.onA backend).run busy built with
      | preSettle state phase =>
        by_cases elapsed : s.a.settleCnt = 0#16 <;> simp [sequencerA, settled, state, phase, elapsed] at moved ⊢
      | armed state phase => simp [sequencerA, state, phase]
      | waitTc state phase => simp only [sequencerA, phase] at moved; split at moved <;> simp at moved
      | waitUev state phase => simp only [sequencerA, phase] at moved; split at moved <;> simp at moved
      | postSettle state phase =>
        by_cases elapsed : s.a.settleCnt = 0#16 <;> simp [sequencerA, settled, state, phase, elapsed] at moved ⊢
      | resetSettle state phase => simp only [sequencerA, phase] at moved; split at moved <;> simp at moved
    · have waits : sequencer s = awaitBuild s := by simp [sequencer, busy, built]
      rw [waits, awaitBuild] at moved
      split at moved <;> simp [startTransport_eq, backend] at moved

/-- Settles O38: the tick moves `tstate` as its sequencer does. -/
theorem stateMachineOrder : Obligations.StateMachineOrder := by
  intro s t h backend noReset e moved
  obtain ⟨state, pwm⟩ := step_tstate h backend noReset e
  rw [state] at moved ⊢
  rcases sequencer_tstate h.beginTick backend moved with arms | ⟨armed, starts, on⟩ | ends
  · exact .inl arms
  · exact .inr (.inl ⟨armed, starts, (pwm starts).trans on⟩)
  · exact .inr (.inr ends)

/-! ### The phases of a running transport (R33, R190) -/

section
variable {c : Config} {len : Nat} {r : RegsA}

/-- In either wait of a transmission the generator runs and the reader is in its place. -/
theorem PhaseA.generating (h : PhaseA c len r) (phase : r.tphase = .waitTc ∨ r.tphase = .waitUev) :
    r.tstate = .transmitting ∧ GeneratorOk c r ∧ ReaderOk len r := by
  cases h with
  | waitTc state _ gen reader => exact ⟨state, gen, reader⟩
  | waitUev state _ gen reader => exact ⟨state, gen, reader⟩
  | preSettle _ p | armed _ p | postSettle _ p | resetSettle _ p => rcases phase with e | e <;> rw [p] at e <;> cases e

/-- In the three settles generator and reader are off. -/
theorem PhaseA.settling (h : PhaseA c len r)
    (phase : r.tphase = .preSettle ∨ r.tphase = .postSettle ∨ r.tphase = .resetSettle) : QuietA r := by
  cases h with
  | preSettle _ _ quiet | postSettle _ _ quiet | resetSettle _ _ quiet => exact quiet
  | armed _ p | waitTc _ p | waitUev _ p => rcases phase with e | e | e <;> rw [p] at e <;> cases e

/-- The exit settle is still `TRANSMITTING` (R201). -/
theorem PhaseA.postSettle_tstate (h : PhaseA c len r) (phase : r.tphase = .postSettle) : r.tstate = .transmitting := by
  cases h with
  | postSettle state => exact state
  | preSettle _ p | armed _ p | waitTc _ p | waitUev _ p | resetSettle _ p => rw [p] at phase; cases phase

/-- `ARMED`: the reader is in its place, the generator ready at the start of a period. -/
theorem PhaseA.of_armed (h : PhaseA c len r) (state : r.tstate = .armed) : r.tphase = .none ∧ r.cnt = 0#16 ∧
    r.period = BitVec.ofNat 16 c.periodTicks ∧ ReaderOk len r := by
  cases h with
  | armed _ phase _ _ _ cnt period reader => exact ⟨phase, cnt, period, reader⟩
  | preSettle p | waitTc p | waitUev p | postSettle p | resetSettle p => rw [p] at state; cases state

/-- Running, the generator is at a boundary exactly when its counter is 0 (R195). -/
theorem GeneratorOk.atBoundary_eq (gen : GeneratorOk c r) : atBoundary r = decide (r.cnt = 0#16) := by
  rw [atBoundary, gen.pwm, Bool.true_and]; rfl

/-- The counter advances modulo the period (R194). -/
theorem RegsA.count_cnt_toNat (legal : c.legal = true) (pwm : r.pwmEn = true)
    (period : r.period = BitVec.ofNat 16 c.periodTicks) : r.count.cnt.toNat = (r.cnt.toNat + 1) % c.periodTicks := by
  obtain ⟨-, -, -, positive, bounded, -⟩ := c.legal_iff.mp legal
  have below : (r.cnt.toNat + 1) % c.periodTicks < c.periodTicks := Nat.mod_lt _ (by omega)
  rw [count, if_pos pwm, period, BitVec.toNat_ofNat, BitVec.toNat_ofNat, Nat.mod_eq_of_lt bounded, Nat.mod_eq_of_lt (by omega)]

theorem RegsA.settleDown_eq (r : RegsA) : r.settleDown =
    { r with settleCnt := if r.settleCnt = 0#16 then 0#16 else r.settleCnt - 1#16 } := by
  unfold settleDown
  split
  · next settled => rw [← settled]
  · rfl

theorem RegsA.settleDown_of_settled (settled : r.settleCnt = 0#16) : r.settleDown = r := if_pos settled

theorem RegsA.settleDown_of_settling (settling : r.settleCnt ≠ 0#16) :
    r.settleDown = { r with settleCnt := r.settleCnt - 1#16 } := if_neg settling

end

/-! ### One tick of a running transport -/

/-- A Backend A block whose transport runs. -/
structure RunningA (s : State) : Prop where
  inv : BlockInv s
  backend : s.cfg.backend = .A
  busy : s.busy = true
  built : s.buildCnt = 0

/-- The length of the frame the strip asks for. -/
abbrev frameLen (s : State) : Nat := Config.lenA s.strip.count.toNat

theorem RunningA.phase (h : RunningA s) : PhaseA s.cfg (frameLen s) s.a := (h.inv.onA h.backend).run h.busy h.built

theorem RunningA.sequencer_eq (h : RunningA s) : sequencer (beginTick s) = sequencerA (beginTick s) := by
  simp [sequencer, h.busy, h.built, h.backend]

/-- The state a tick of a running transport ends in, of the registers `q` the sequencer leaves. -/
def ranOn (q : RegsA) (s : State) : State :=
  { beginTick s with
    dout := doutA (q.transport s.fba (nextInput s).stall), a := (q.transport s.fba (nextInput s).stall).count.settleDown }

/-- While the sequencer has not ended the operation, the tick is its move, the transport's and the counters' (R202). -/
theorem RunningA.step_eq (h : RunningA s) (noReset : (nextInput s).rst = false) {q : RegsA}
    (moves : sequencerA (beginTick s) = { beginTick s with a := q }) : step s = .next (ranOn q s) := by
  have inv := h.inv.beginTick.sequencer
  rw [h.sequencer_eq, moves] at inv
  have running : (sequencer (beginTick s)).busy = true := by rw [h.sequencer_eq, moves]; exact h.busy
  rw [step, tick_busy noReset running, h.sequencer_eq, moves, inv.agentsA_eq h.backend]
  rfl

/-- Waiting for `dma_tc` that has not come, the sequencer moves nothing. -/
theorem sequencerA_waitTc (phase : s.a.tphase = .waitTc) (tc : s.a.dmaTc = false) :
    sequencerA (beginTick s) = { beginTick s with a := s.a } := by simp [sequencerA, phase, tc]; rfl

theorem sequencerA_waitTc_done (phase : s.a.tphase = .waitTc) (tc : s.a.dmaTc = true) :
    sequencerA (beginTick s) = { beginTick s with a := s.a.awaitBoundary } := by simp [sequencerA, phase, tc]

theorem sequencerA_waitUev (phase : s.a.tphase = .waitUev) (uif : s.a.uif = false) :
    sequencerA (beginTick s) = { beginTick s with a := s.a } := by simp [sequencerA, phase, uif]; rfl

theorem sequencerA_waitUev_done (phase : s.a.tphase = .waitUev) (uif : s.a.uif = true) :
    sequencerA (beginTick s) = { beginTick s with a := s.a.stop s.cfg } := by simp [sequencerA, phase, uif]

theorem sequencerA_settling (phase : s.a.tphase = .preSettle ∨ s.a.tphase = .postSettle ∨ s.a.tphase = .resetSettle)
    (settling : s.a.settleCnt ≠ 0#16) : sequencerA (beginTick s) = { beginTick s with a := s.a } := by
  rcases phase with p | p | p <;> simp [sequencerA, p, settled, settling] <;> rfl

theorem sequencerA_arm (phase : s.a.tphase = .preSettle) (elapsed : s.a.settleCnt = 0#16) :
    sequencerA (beginTick s) = { beginTick s with a := s.a.arm s.cfg (Config.lenA s.showN.toNat) } := by
  simp [sequencerA, phase, settled, elapsed]

theorem sequencerA_start (state : s.a.tstate = .armed) (phase : s.a.tphase = .none) :
    sequencerA (beginTick s) = { beginTick s with a := s.a.start } := by simp [sequencerA, state, phase]

theorem sequencerA_rest (phase : s.a.tphase = .postSettle) (elapsed : s.a.settleCnt = 0#16) :
    sequencerA (beginTick s) = { beginTick s with a := s.a.rest, busy := false } := by
  simp [sequencerA, phase, settled, elapsed]

/-- With the generator off the line is low and only the settle counter moves. -/
theorem ranOn_of_off {q r : RegsA} (acts : q.transport s.fba (nextInput s).stall = r) (off : r.pwmEn = false) :
    ranOn q s = { beginTick s with dout := false, a := r.settleDown } := by
  rw [ranOn, acts, RegsA.count_of_off off, doutA_of_off off]

/-- Settles O31: the sequencer waits, and of the registers only `settle_cnt` moves. -/
theorem settleTick : Obligations.SettleTick := by
  intro s h backend busy built phase settling noReset
  have running : RunningA s := ⟨h, backend, busy, built⟩
  have quiet := running.phase.settling phase
  rw [running.step_eq noReset (sequencerA_settling phase settling), ranOn_of_off quiet.transport quiet.pwm,
    RegsA.settleDown_of_settling settling]
  rfl

/-- The first element of a frame goes to the preload in the tick the reader is armed (R199). -/
theorem RegsA.arm_transport {fba : Store Duty} {c : Config} {r : RegsA} {n : Nat} (off : r.pwmEn = false)
    (bounded : Config.lenA n < 2 ^ 16) : (r.arm c (Config.lenA n)).transport fba false =
      { r.arm c (Config.lenA n) with
        dmaReq := false, ccrPre := Store.read 0#16 fba 0, dmaPtr := 1#16, dmaRem := BitVec.ofNat 16 (24 * n + 1) } := by
  have rem : BitVec.ofNat 16 (Config.lenA n) = BitVec.ofNat 16 (24 * n + 1) + 1#16 := (BitVec.ofNat_add _ 1)
  have fits : 24 * n + 2 < 2 ^ 16 := bounded
  have more : BitVec.ofNat 16 (24 * n + 1) ≠ 0#16 := by bv_omega
  have left : BitVec.ofNat 16 (24 * n + 2) ≠ 0#16 := by bv_omega
  rw [transport, generate_of_inside (by simp [atBoundary, off]), read_of_element rfl rfl left]
  simp [transfer, rem, more]

/-- Settles O32: the sequencer arms the reader, which serves the priming request. -/
theorem armTick : Obligations.ArmTick := by
  intro s h backend busy built phase elapsed noReset flows
  have running : RunningA s := ⟨h, backend, busy, built⟩
  have off := (running.phase.settling (.inl phase)).pwm
  have sampled : s.showN = s.strip.count := h.sampled (.inr ⟨backend, phase⟩)
  have acts := (congrArg (fun stall => (s.a.arm s.cfg (frameLen s)).transport s.fba stall) flows).trans
    (RegsA.arm_transport off (lenA_lt h.legal h.strip))
  rw [running.step_eq noReset (sequencerA_arm phase elapsed), sampled, ranOn_of_off acts off, RegsA.settleDown_of_settled]
  · simp only [beginTick, sampled]
    rfl
  · exact elapsed

/-- A boundary's request moves the next element in the same tick (R197, R198). -/
theorem RegsA.boundary_transport {fba : Store Duty} {r : RegsA} (boundary : atBoundary r = true) (en : r.dmaEn = true)
    (left : r.dmaRem ≠ 0#16) :
    r.transport fba false = r.boundary.transfer (Store.read 0#16 fba r.dmaPtr.toNat) := by
  rw [transport, generate_of_boundary boundary, read_of_element (r := r.boundary) en (by simp [en]) left]
  rfl

/-- With the generator on the pin the line is high while the counter is below the active duty, and both counters move. -/
theorem ranOn_of_on {q r : RegsA} (acts : q.transport s.fba (nextInput s).stall = r) (pin : r.pinMode = .pwm) (oe : r.oe = true)
    (on : r.pwmEn = true) : ranOn q s = { beginTick s with
      dout := decide (r.cnt < r.ccrAct)
      a := { r with
        cnt := BitVec.ofNat 16 ((r.cnt.toNat + 1) % r.period.toNat)
        settleCnt := if r.settleCnt = 0#16 then 0#16 else r.settleCnt - 1#16 } } := by
  rw [ranOn, acts, RegsA.count_of_on on, RegsA.settleDown_eq, doutA_of_on pin oe on]

/-- Settles O33: the generator starts at boundary 0, whose request moves the next element. -/
theorem startTick : Obligations.StartTick := by
  intro s h backend busy built state left noReset flows
  have running : RunningA s := ⟨h, backend, busy, built⟩
  obtain ⟨phase, cnt, period, reader⟩ := running.phase.of_armed state
  obtain ⟨-, -, -, positive, bounded, -⟩ := s.cfg.legal_iff.mp h.legal
  have next : ((0#16).toNat + 1) % s.a.period.toNat = 1 := by
    rw [period, BitVec.toNat_ofNat, BitVec.toNat_ofNat, Nat.mod_eq_of_lt bounded]
    exact Nat.mod_eq_of_lt (by omega)
  have acts := (congrArg (fun stall => s.a.start.transport s.fba stall) flows).trans
    (RegsA.boundary_transport (by simp [atBoundary, cnt]) reader.en left)
  rw [RegsA.transfer_eq] at acts
  rw [running.step_eq noReset (sequencerA_start state phase), ranOn_of_on acts rfl rfl rfl]
  simp only [RegsA.boundary_cnt, RegsA.start_cnt, RegsA.boundary_period, RegsA.start_period, cnt, next]
  rfl

/-! ### The end of a transmission -/

/-- A transport at rest whose last settle is over does nothing (R207). -/
theorem agentsA_still (backend : s.cfg.backend = .A) (rest : RestA s.a) (elapsed : s.a.settleCnt = 0#16) (stall : Bool) :
    agents stall s = .next { s with dout := false } := by
  rw [agentsA_rest backend rest, RegsA.count_of_off rest.quiet.pwm, RegsA.settleDown_of_settled elapsed]

/-- The exit settle over and no command presented, the block comes to rest (R201 (e)). -/
theorem RunningA.step_rest (h : RunningA s) (noReset : (nextInput s).rst = false) (noCmd : (nextInput s).cmd = none)
    (phase : s.a.tphase = .postSettle) (elapsed : s.a.settleCnt = 0#16) :
    step s = .next { beginTick s with dout := false, busy := false, a := s.a.rest } := by
  have inv := h.inv.beginTick.sequencer
  rw [h.sequencer_eq, sequencerA_rest phase elapsed] at inv
  rw [step, tick_no_cmd noReset noCmd, h.sequencer_eq, sequencerA_rest phase elapsed]
  exact agentsA_still (by exact h.backend) ((inv.onA h.backend).rest (.inl rfl)) (by exact elapsed) _

/-- A tick of the generator in either wait of a transmission, of a sequencer's move that touches only `uif` and the wait. -/
theorem RunningA.generates (h : RunningA s) (phase : s.a.tphase = .waitTc ∨ s.a.tphase = .waitUev)
    (noReset : (nextInput s).rst = false) {uif : Bool} {p : TPhase}
    (moves : sequencerA (beginTick s) = { beginTick s with a := { s.a with uif := uif, tphase := p } }) :
    ∃ t, step s = .next t ∧ t.a.tphase = p ∧ t.a.tstate = .transmitting ∧
      t.a.uif = (if s.a.cnt = 0#16 then true else uif) ∧ t.a.pwmEn = true ∧ t.a.oe = true ∧ t.busy = true := by
  obtain ⟨state, gen, -⟩ := h.phase.generating phase
  refine ⟨_, h.step_eq noReset moves, ?_⟩
  simp [ranOn, atBoundary, state, gen.pwm, gen.oe, h.busy]

/-- Stopped, the transport is in its exit settle, of which this tick is the first (R201 (c), (d)). -/
theorem RunningA.step_stop (h : RunningA s) (noReset : (nextInput s).rst = false) (phase : s.a.tphase = .waitUev)
    (uif : s.a.uif = true) : step s = .next { beginTick s with
      dout := false, a := { s.a.stop s.cfg with settleCnt := BitVec.ofNat 16 (s.cfg.settleTicks - 1) } } := by
  obtain ⟨-, -, -, -, -, -, -, -, positive, bounded, -⟩ := s.cfg.legal_iff.mp h.inv.legal
  have quiet : QuietA (s.a.stop s.cfg) := ⟨rfl, rfl, rfl, rfl, rfl⟩
  have settling : BitVec.ofNat 16 s.cfg.settleTicks ≠ 0#16 := by bv_omega
  have down : BitVec.ofNat 16 s.cfg.settleTicks - 1#16 = BitVec.ofNat 16 (s.cfg.settleTicks - 1) := by bv_omega
  rw [h.step_eq noReset (sequencerA_waitUev_done phase uif), ranOn_of_off quiet.transport quiet.pwm,
    RegsA.settleDown_of_settling settling, RegsA.stop_settleCnt, down]

/-- Settles O34, each moment a tick of the sequencer's move in it. -/
theorem completionTicks : Obligations.CompletionTicks := by
  intro s h backend busy built noReset
  have running : RunningA s := ⟨h, backend, busy, built⟩
  refine ⟨fun phase done => ?_, fun phase clear => ?_, fun phase set => ?_, fun phase elapsed noCmd => ?_⟩
  · simpa using running.generates (.inl phase) noReset (sequencerA_waitTc_done phase done)
  · simpa [phase, clear] using running.generates (.inr phase) noReset (sequencerA_waitUev phase clear)
  · exact running.step_stop noReset phase set
  · exact running.step_rest noReset noCmd phase elapsed

/-- Settles O30: the tick of the transport on registers the sequencer leaves alone. -/
theorem generatorTick : Obligations.GeneratorTick := by
  intro s h backend busy built phase tc noReset
  have running : RunningA s := ⟨h, backend, busy, built⟩
  obtain ⟨state, gen, reader⟩ := running.phase.generating (.inl phase)
  have left : s.a.dmaRem ≠ 0#16 := fun done => by simp [reader.tc.mpr done] at tc
  have boundary := gen.atBoundary_eq
  refine ⟨_, running.step_eq noReset (sequencerA_waitTc phase tc), ?_, ?_, ?_, ?_, fun stalls => ?_, fun flows => ?_, ?_⟩
  · simp [ranOn, boundary]
  · simp [ranOn, boundary]
  · simp [ranOn, doutA, gen.pin, gen.oe, gen.pwm]
  · rw [ranOn, RegsA.settleDown_cnt, RegsA.count_cnt_toNat h.legal (by simpa using gen.pwm) (by simpa using gen.period),
      RegsA.transport_cnt]
  · simp [ranOn, stalls, RegsA.transport_of_stall left, RegsA.generate_eq, reader.en, boundary]
  · simp [ranOn, flows, RegsA.transport_dmaReq reader.en]
  · simp [ranOn, state, phase, gen.pin, gen.pwm, gen.oe, reader.en, busy]

/-! ### Runs -/

/-- A run cut at a state it reaches. -/
theorem after_add {k : Nat} (e : after k s = .next t) (m : Nat) : after (k + m) s = after m t := by
  induction k generalizing s with
  | zero => cases e; rw [Nat.zero_add]
  | succ k ih =>
    rw [after_succ, Result.andThen_eq_next] at e
    obtain ⟨u, first, others⟩ := e
    rw [Nat.succ_add, after_succ, first, Result.andThen_next, ih others]

theorem after_one (s : State) : after 1 s = step s := by
  rw [after_succ]
  cases step s <;> rfl

/-- A run takes the inputs of its ticks and leaves the others as they are to come. -/
theorem inputAt_of_after {k : Nat} (e : after k s = .next t) (j : Nat) : inputAt t j = inputAt s (k + j) := by
  induction k generalizing s with
  | zero => cases e; rw [Nat.zero_add]
  | succ k ih =>
    rw [after_succ, Result.andThen_eq_next] at e
    obtain ⟨u, first, others⟩ := e
    rw [ih others, inputAt_of_step first, Nat.succ_add]

/-- In each of the next `k` ticks the input ports are as `I` says. -/
def inputsMeet (I : PortIn → Prop) (k : Nat) (s : State) : Prop := ∀ j, j < k → I (inputAt s j)

section
variable {I : PortIn → Prop} {k m : Nat}

theorem inputsMeet.of_le (h : inputsMeet I k s) (hm : m ≤ k) : inputsMeet I m s := fun j hj => h j (by omega)

theorem inputsMeet.of_after (h : inputsMeet I (k + m) s) (e : after k s = .next t) : inputsMeet I m t := fun j hj => by
  rw [inputAt_of_after e]
  exact h (k + j) (by omega)

theorem inputsMeet.of_step (h : inputsMeet I (k + 1) s) (e : step s = .next t) : inputsMeet I k t := by
  rw [Nat.add_comm] at h
  exact h.of_after ((after_one s).trans e)

theorem inputsMeet.next (h : inputsMeet I k s) (positive : 0 < k) : I (nextInput s) := by
  rw [nextInput_eq]
  exact h 0 positive

end

/-- From `s` the block is busy and takes no command for `d` ticks, with these levels of the line, and then is in `t`, of the same
parameters and strip and with the same Backend A frame. -/
structure BusyRun (d : Nat) (s : State) (line : List Bool) (t : State) : Prop where
  reaches : after d s = .next t
  line : lineTrace d s = line
  busy : ∀ j, j < d → ∃ u, after j s = .next u ∧ u.busy = true ∧ readyNow u = false
  cfg : t.cfg = s.cfg
  strip : t.strip = s.strip
  fba : t.fba = s.fba

theorem BusyRun.nil (s : State) : BusyRun 0 s [] s := ⟨rfl, rfl, fun _ h => absurd h (Nat.not_lt_zero _), rfl, rfl, rfl⟩

/-- A tick that finds the block busy and its operation going on. -/
theorem BusyRun.tick (noReset : (nextInput s).rst = false) (busy : s.busy = true) (running : readyNow s = false)
    (e : step s = .next t) : BusyRun 1 s [t.dout] t := by
  have acts := e
  rw [step_of_not_ready noReset running] at acts
  have frame := agents_next acts
  refine ⟨(after_one s).trans e, by rw [lineTrace_succ e, lineTrace], fun j hj => ?_, ?_, ?_, ?_⟩
  · obtain rfl : j = 0 := by omega
    exact ⟨s, rfl, busy, running⟩
  all_goals rw [frame]; simp

theorem BusyRun.trans {d d' : Nat} {line line' : List Bool} (h : BusyRun d s line t) (h' : BusyRun d' t line' u) :
    BusyRun (d + d') s (line ++ line') u where
  reaches := (after_add h.reaches d').trans h'.reaches
  line := by rw [lineTrace_add h.reaches, h.line, h'.line]
  busy := fun j hj => by
    by_cases first : j < d
    · exact h.busy j first
    · obtain ⟨i, rfl⟩ := Nat.exists_eq_add_of_le (Nat.le_of_not_lt first)
      rw [after_add h.reaches]
      exact h'.busy i (by omega)
  cfg := h'.cfg.trans h.cfg
  strip := h'.strip.trans h.strip
  fba := h'.fba.trans h.fba

section
variable {I : PortIn → Prop} {Q : Nat → State → Prop} {n d : Nat}

/-- Runs of `d` ticks one after another: induction on how many. -/
theorem BusyRun.iterate {line : Nat → List Bool}
    (runs : ∀ k s, k < n → Q k s → inputsMeet I d s → ∃ t, BusyRun d s (line k) t ∧ Q (k + 1) t)
    (start : Q 0 s) (inputs : inputsMeet I (n * d) s) :
    ∃ t, BusyRun (n * d) s ((List.range n).flatMap line) t ∧ Q n t := by
  induction n with
  | zero => exact ⟨s, by rw [Nat.zero_mul]; exact .nil s, start⟩
  | succ n ih =>
    rw [Nat.succ_mul] at inputs ⊢
    obtain ⟨t, first, reached⟩ := ih (fun k s hk => runs k s (by omega)) (inputs.of_le (Nat.le_add_right _ _))
    obtain ⟨u, last, reached⟩ := runs n t (by omega) reached (inputs.of_after first.reaches)
    refine ⟨u, ?_, reached⟩
    rw [List.range_succ, List.flatMap_append, List.flatMap_singleton]
    exact first.trans last

/-- Ticks one after another. -/
theorem BusyRun.ticks {level : Nat → Bool}
    (ticks : ∀ k s, k < n → Q k s → I (nextInput s) → ∃ t, BusyRun 1 s [level k] t ∧ Q (k + 1) t)
    (start : Q 0 s) (inputs : inputsMeet I n s) :
    ∃ t, BusyRun n s ((List.range n).map level) t ∧ Q n t := by
  have runs := BusyRun.iterate (d := 1) (line := fun k => [level k])
    (fun k s hk at_k inputs => ticks k s hk at_k (inputs.next Nat.one_pos)) start (by rwa [Nat.mul_one])
  rwa [Nat.mul_one, ← List.map_eq_flatMap] at runs

end

/-- The operation goes on unless the sequencer ends it. -/
theorem RunningA.not_ready (h : RunningA s) {q : RegsA} (moves : sequencerA (beginTick s) = { beginTick s with a := q }) :
    readyNow s = false := by
  rw [readyNow, h.sequencer_eq, moves, cmdReady, beginTick_busy, h.busy]
  rfl

/-- A running transport's tick, with the registers it leaves. -/
theorem RunningA.tick (h : RunningA s) (noReset : (nextInput s).rst = false) {q : RegsA}
    (moves : sequencerA (beginTick s) = { beginTick s with a := q }) : ∃ t,
      BusyRun 1 s [doutA (q.transport s.fba (nextInput s).stall)] t ∧ RunningA t ∧
      t.a = (q.transport s.fba (nextInput s).stall).count.settleDown := by
  have e := h.step_eq noReset moves
  exact ⟨ranOn q s, .tick noReset h.busy (h.not_ready moves) e, ⟨invariantKept s _ h.inv e, h.backend, h.busy, h.built⟩, rfl⟩

/-- A tick of the generator on the pin: the duty latched at a boundary, the line by the counter, the counter on (R194 to R196, R41). -/
theorem RunningA.play (h : RunningA s) (noReset : (nextInput s).rst = false) {q : RegsA} (gen : GeneratorOk s.cfg q)
    (moves : sequencerA (beginTick s) = { beginTick s with a := q }) : ∃ t,
      BusyRun 1 s [decide (q.cnt < t.a.ccrAct)] t ∧ RunningA t ∧
      t.a = (q.transport s.fba (nextInput s).stall).count.settleDown ∧
      t.a.cnt.toNat = (q.cnt.toNat + 1) % s.cfg.periodTicks ∧
      t.a.ccrAct = if q.cnt = 0#16 then q.ccrPre else q.ccrAct := by
  obtain ⟨t, run, running, regs⟩ := h.tick noReset moves
  refine ⟨t, ?_, running, regs, ?_, ?_⟩
  · rw [doutA_of_on (by simp [gen.pin]) (by simp [gen.oe]) (by simp [gen.pwm])] at run
    simpa [regs] using run
  · rw [regs, RegsA.settleDown_cnt, RegsA.count_cnt_toNat h.inv.legal (by simp [gen.pwm]) (by simp [gen.period]),
      RegsA.transport_cnt]
  · simp [regs, gen.atBoundary_eq]

/-! ### A stalled reader (R205, R206) -/

/-- Normal operation (R52). -/
def undisturbed (p : PortIn) : Prop := p.rst = false ∧ p.stall = false

/-- The reader stalls, and no reset comes. -/
def stalled (p : PortIn) : Prop := p.rst = false ∧ p.stall = true

/-- Waiting for `dma_tc` with elements left at `ptr`, the duty `d` queued. -/
structure Starved (d : Duty) (ptr rem : Half) (s : State) : Prop extends RunningA s where
  phase : s.a.tphase = .waitTc
  queued : s.a.ccrPre = d
  here : s.a.dmaPtr = ptr
  left : s.a.dmaRem = rem
  some : rem ≠ 0#16

variable {d : Duty} {ptr rem : Half}

theorem Starved.generating (h : Starved d ptr rem s) :
    s.a.tstate = .transmitting ∧ GeneratorOk s.cfg s.a ∧ ReaderOk (frameLen s) s.a :=
  h.toRunningA.phase.generating (.inl h.phase)

theorem Starved.not_tc (h : Starved d ptr rem s) : s.a.dmaTc = false := by
  obtain ⟨-, -, reader⟩ := h.generating
  rw [← Bool.not_eq_true, reader.tc, h.left]
  exact h.some

/-- A stalled tick leaves reader and sequencer where they are, and plays the queued duty from a boundary on. -/
theorem Starved.tick (h : Starved d ptr rem s) (input : stalled (nextInput s)) :
    ∃ t, BusyRun 1 s [decide (s.a.cnt < t.a.ccrAct)] t ∧ Starved d ptr rem t ∧
      t.a.cnt.toNat = (s.a.cnt.toNat + 1) % s.cfg.periodTicks ∧ t.a.ccrAct = if s.a.cnt = 0#16 then d else s.a.ccrAct := by
  obtain ⟨noReset, stalls⟩ := input
  obtain ⟨state, gen, reader⟩ := h.generating
  obtain ⟨t, run, running, regs, cnt, act⟩ := h.toRunningA.play noReset gen (sequencerA_waitTc h.phase h.not_tc)
  obtain ⟨pre, here, left⟩ := RegsA.transport_reader_of_stall (fba := s.fba) (h.left ▸ h.some : s.a.dmaRem ≠ 0#16)
  rw [stalls] at regs
  exact ⟨t, run, {
    toRunningA := running
    phase := by simp [regs, h.phase]
    queued := by simp [regs, pre, h.queued]
    here := by simp [regs, here, h.here]
    left := by simp [regs, left, h.left]
    some := h.some }, cnt, h.queued ▸ act⟩

/-- For as long as it lasts. -/
theorem Starved.goes_on {k : Nat} (h : Starved d ptr rem s) (inputs : inputsMeet stalled k s) :
    ∃ line t, BusyRun k s line t ∧ Starved d ptr rem t := by
  induction k generalizing s with
  | zero => exact ⟨[], s, .nil s, h⟩
  | succ k ih =>
    obtain ⟨t, first, h', -⟩ := h.tick (inputs.next (Nat.succ_pos k))
    obtain ⟨line, u, others, reached⟩ := ih h' (inputs.of_step ((after_one s).symm.trans first.reaches))
    rw [Nat.add_comm]
    exact ⟨_, u, first.trans others, reached⟩

/-- A period of a duty, tick by tick (R109). -/
theorem periodLine_eq_map (c : Config) {d : Nat} (bounded : d ≤ c.periodTicks) :
    periodLine c d = (List.range c.periodTicks).map fun j => decide (j < d) := by
  refine List.ext_getElem (by simp [periodLine]; omega) fun j h _ => ?_
  simp [periodLine, List.getElem_append]

/-- A level by the counter's bits is a level by its number. -/
theorem decide_lt_eq {cnt d : Half} {j : Nat} (h : cnt.toNat = j) : decide (cnt < d) = decide (j < d.toNat) := by
  subst h; rfl

/-- From a boundary a stalled period plays the queued duty, as much of it as the period holds. -/
theorem Starved.period (h : Starved d ptr rem s) (boundary : s.a.cnt = 0#16)
    (inputs : inputsMeet stalled s.cfg.periodTicks s) :
    ∃ t, BusyRun s.cfg.periodTicks s (periodLine s.cfg (min d.toNat s.cfg.periodTicks)) t ∧ Starved d ptr rem t ∧
      t.a.cnt = 0#16 := by
  have playing := BusyRun.ticks (n := s.cfg.periodTicks) (level := fun j => decide (j < min d.toNat s.cfg.periodTicks))
    (Q := fun j t => Starved d ptr rem t ∧ t.cfg = s.cfg ∧ t.a.cnt.toNat = j % s.cfg.periodTicks ∧ (0 < j → t.a.ccrAct = d))
    (I := stalled) ?_ ⟨h, rfl, by simp [boundary], fun e => absurd e (Nat.lt_irrefl 0)⟩ inputs
  · rw [periodLine_eq_map _ (Nat.min_le_right _ _)]
    obtain ⟨t, run, h', -, cnt, -⟩ := playing
    exact ⟨t, run, h', BitVec.eq_of_toNat_eq (cnt.trans (Nat.mod_self _))⟩
  · rintro j t hj ⟨h', cfg, cnt, act⟩ input
    rw [Nat.mod_eq_of_lt hj] at cnt
    obtain ⟨u, run, h'', cnt', act'⟩ := h'.tick input
    have latched : u.a.ccrAct = d := by
      rw [act']
      split
      · rfl
      · next inside => exact act (Nat.pos_of_ne_zero fun zero => inside (BitVec.eq_of_toNat_eq (cnt.trans zero)))
    have level : decide (t.a.cnt < u.a.ccrAct) = decide (j < min d.toNat s.cfg.periodTicks) := by
      rw [latched, decide_lt_eq cnt]
      simp [hj]
    exact ⟨u, level ▸ run, h'', run.cfg.trans cfg, by rw [cnt', cnt, cfg], fun _ => latched⟩

/-- Settles O37: a starved transport stays starved, and from a boundary its periods are alike. -/
theorem stallHangs : Obligations.StallHangs := by
  intro s k h backend busy built phase left noReset stalls
  have starved : Starved s.a.ccrPre s.a.dmaPtr s.a.dmaRem s := ⟨⟨h, backend, busy, built⟩, phase, rfl, rfl, rfl, left⟩
  have inputs : inputsMeet stalled k s := fun j hj => ⟨noReset j hj, stalls j hj⟩
  refine ⟨?_, fun m boundary periods => ?_⟩
  · obtain ⟨line, t, run, h'⟩ := starved.goes_on inputs
    obtain ⟨state, gen, -⟩ := h'.generating
    exact ⟨t, run.reaches, h'.busy, h'.not_ready (sequencerA_waitTc h'.phase h'.not_tc), state, h'.phase, h'.not_tc, gen.pwm,
      gen.oe, gen.pin, h'.left, h'.here, h'.queued, run.strip⟩
  · subst periods
    have periods := BusyRun.iterate (n := m) (d := s.cfg.periodTicks)
      (line := fun _ => periodLine s.cfg (min s.a.ccrPre.toNat s.cfg.periodTicks))
      (Q := fun _ t => Starved s.a.ccrPre s.a.dmaPtr s.a.dmaRem t ∧ t.cfg = s.cfg ∧ t.a.cnt = 0#16) (I := stalled) ?_
      ⟨starved, rfl, boundary⟩ inputs
    · obtain ⟨t, run, -⟩ := periods
      rw [run.line, List.flatMap_def, List.map_const', List.length_range]
    · rintro _ t - ⟨h', cfg, cnt⟩ inputs
      rw [← cfg] at inputs ⊢
      obtain ⟨u, run, h'', cnt'⟩ := h'.period cnt inputs
      exact ⟨u, run, h'', run.cfg, cnt'⟩

/-! ### A frame played (R199, R203, R204) -/

/-- The reader has moved the elements of a frame up to slot `k`, or all of them, and nothing is requested of it. -/
structure ReadUpTo (fba : Store Duty) (len k : Nat) (r : RegsA) : Prop where
  pre : r.ccrPre = Store.read 0#16 fba (min k (len - 1))
  ptr : r.dmaPtr.toNat = min (k + 1) len
  served : r.dmaReq = false

section
variable {fba : Store Duty} {len k : Nat} {r : RegsA}

/-- A boundary's request finds nothing left. -/
theorem RegsA.boundary_transport_of_done {stall : Bool} (boundary : atBoundary r = true) (en : r.dmaEn = true)
    (done : r.dmaRem = 0#16) : r.transport fba stall = { r.boundary with dmaReq := false } := by
  rw [transport, generate_of_boundary boundary, read_of_done (r := r.boundary) en (by simp [en]) done]

/-- A boundary takes the reader one slot on, or finds it at the end. -/
theorem ReadUpTo.boundary (h : ReadUpTo fba len k r) (reader : ReaderOk len r) (bounded : len < 2 ^ 16)
    (boundary : atBoundary r = true) : ReadUpTo fba len (k + 1) (r.transport fba false) := by
  obtain ⟨pre, ptr, -⟩ := h
  by_cases done : r.dmaRem = 0#16
  · have atEnd : r.dmaPtr.toNat = len := by
      have sum := reader.sum
      rwa [done] at sum
    rw [RegsA.boundary_transport_of_done boundary reader.en done]
    exact ⟨by rw [show min (k + 1) (len - 1) = min k (len - 1) by omega]; exact pre,
      show r.dmaPtr.toNat = _ by omega, rfl⟩
  · have here := reader.ptr_lt done
    rw [RegsA.boundary_transport boundary reader.en done]
    exact ⟨by rw [show min (k + 1) (len - 1) = r.dmaPtr.toNat by omega]; rfl,
      show (r.dmaPtr + 1#16).toNat = _ by bv_omega, rfl⟩

/-- Inside a period, with nothing requested, neither generator nor reader acts. -/
theorem RegsA.transport_of_inside {stall : Bool} (inside : atBoundary r = false) (served : r.dmaReq = false) :
    r.transport fba stall = r := by
  rw [transport, generate_of_inside inside, read_of_no_request (.inr served)]

end

/-- The registers `q` the sequencer leaves for a tick of a transmission before which the reader stands at slot `k`: generator and reader
run on, and `dma_tc` has been seen once nothing is left to move. -/
structure Playing (k : Nat) (s : State) (q : RegsA) : Prop where
  moves : sequencerA (beginTick s) = { beginTick s with a := q }
  gen : GeneratorOk s.cfg q
  reader : ReaderOk (frameLen s) q
  ahead : ReadUpTo s.fba (frameLen s) k q
  phase : q.tphase = if k + 1 < frameLen s then .waitTc else .waitUev

/-- Tick `j` of period `k` has been played: slot `k` is on the line and the reader a slot ahead. The sequencer has not seen `dma_tc` before
the second tick of the last data slot, and sees the boundary of the trailing guard only after it. -/
structure Played (k j : Nat) (s : State) : Prop extends RunningA s where
  act : s.a.ccrAct = readFba s k
  ahead : ReadUpTo s.fba (frameLen s) (k + 1) s.a
  cnt : s.a.cnt.toNat = (j + 1) % s.cfg.periodTicks
  waits : if k + 2 < frameLen s ∨ k + 2 = frameLen s ∧ j = 0 then s.a.tphase = .waitTc
    else s.a.tphase = .waitUev ∧ s.a.uif = decide (k + 1 = frameLen s)

/-- The level of the line in tick `j` of the period of slot `k`. -/
def slotLevel (s : State) (k j : Nat) : Bool := decide (j < (readFba s k).toNat)

theorem BusyRun.readFba_eq {d : Nat} {line : List Bool} (run : BusyRun d s line t) (k : Nat) : readFba t k = readFba s k := by
  rw [readFba, run.fba, readFba]

theorem BusyRun.frameLen_eq {d : Nat} {line : List Bool} (run : BusyRun d s line t) : frameLen t = frameLen s := by
  rw [frameLen, run.strip]

variable {k j : Nat}

/-- The tick of boundary `k`: slot `k` is latched and the reader moves on. -/
theorem RunningA.slot (h : RunningA s) (input : undisturbed (nextInput s)) {q : RegsA} (playing : Playing k s q)
    (zero : q.cnt = 0#16) (inFrame : k < frameLen s) : ∃ t, BusyRun 1 s [slotLevel s k 0] t ∧ Played k 0 t := by
  obtain ⟨noReset, flows⟩ := input
  obtain ⟨moves, gen, reader, ahead, phase⟩ := playing
  have boundary : atBoundary q = true := by rw [gen.atBoundary_eq, decide_eq_true zero]
  obtain ⟨t, run, running, regs, cnt, act⟩ := h.play noReset gen moves
  have len := run.frameLen_eq
  rw [if_pos zero, ahead.pre, show min k (frameLen s - 1) = k by omega] at act
  rw [zero] at cnt
  have moved := ahead.boundary reader (lenA_lt h.inv.legal h.inv.strip) boundary
  rw [← flows] at moved
  refine ⟨t, ?_, {
    toRunningA := running
    act := by rw [act, run.readFba_eq]; rfl
    ahead := by
      rw [len, run.fba]
      exact ⟨by simp [regs, moved.pre], by simp [regs, moved.ptr], by simp [regs, moved.served]⟩
    cnt := by rw [cnt, run.cfg]; rfl
    waits := ?_ }⟩
  · rwa [act, decide_lt_eq (cnt := q.cnt) (j := 0) (by rw [zero]; rfl)] at run
  · rw [len]
    by_cases last : k + 1 < frameLen s
    · rw [if_pos (by omega)]
      simp [regs, phase, last]
    · rw [if_neg (by omega)]
      simp [regs, phase, boundary, show k + 1 = frameLen s by omega]

theorem Played.generating (h : Played k j s) :
    s.a.tstate = .transmitting ∧ GeneratorOk s.cfg s.a ∧ ReaderOk (frameLen s) s.a := by
  refine h.toRunningA.phase.generating ?_
  have waits := h.waits
  split at waits
  · exact .inl waits
  · exact .inr waits.1

/-- `dma_tc` is set with the boundary before the last (R200). -/
theorem Played.dmaTc (h : Played k j s) : s.a.dmaTc = true ↔ frameLen s ≤ k + 2 := by
  obtain ⟨-, -, reader⟩ := h.generating
  have sum := reader.sum
  have ptr := h.ahead.ptr
  rw [reader.tc]
  bv_omega

/-- While slot `k` is played the sequencer waits, but for the tick in which it sees `dma_tc`. -/
theorem Played.playing (h : Played k j s) (more : k + 1 < frameLen s) : ∃ q, Playing (k + 1) s q ∧ q.cnt = s.a.cnt ∧
    q.ccrAct = s.a.ccrAct ∧ (k + 2 = frameLen s → q.uif = false) := by
  obtain ⟨-, gen, reader⟩ := h.generating
  have waits := h.waits
  by_cases before : k + 2 < frameLen s
  · rw [if_pos (.inl before)] at waits
    have tc : s.a.dmaTc = false := by
      rw [← Bool.not_eq_true, h.dmaTc]
      omega
    exact ⟨s.a, ⟨sequencerA_waitTc waits tc, gen, reader, h.ahead, by rw [waits, if_pos before]⟩, rfl, rfl, fun _ => by omega⟩
  · by_cases first : j = 0
    · rw [if_pos (.inr ⟨by omega, first⟩)] at waits
      exact ⟨s.a.awaitBoundary, ⟨sequencerA_waitTc_done waits (h.dmaTc.mpr (by omega)),
        ⟨gen.pin, gen.pwm, gen.oe, gen.period, gen.inside⟩, ⟨reader.en, reader.sum, reader.tc⟩,
        ⟨h.ahead.pre, h.ahead.ptr, h.ahead.served⟩, (if_neg before).symm⟩, rfl, rfl, fun _ => rfl⟩
    · rw [if_neg (by omega)] at waits
      have clear : s.a.uif = false := by rw [waits.2]; exact decide_eq_false (by omega)
      exact ⟨s.a, ⟨sequencerA_waitUev waits.1 clear, gen, reader, h.ahead, by rw [waits.1, if_neg before]⟩, rfl, rfl,
        fun _ => clear⟩

/-- A tick inside period `k`. -/
theorem Played.inside (h : Played k j s) (more : k + 1 < frameLen s) (inside : j + 1 < s.cfg.periodTicks)
    (input : undisturbed (nextInput s)) : ∃ t, BusyRun 1 s [slotLevel s k (j + 1)] t ∧ Played k (j + 1) t := by
  obtain ⟨q, ⟨moves, gen, reader, ahead, phase⟩, cnt_q, act_q, clear⟩ := h.playing more
  have count : q.cnt.toNat = j + 1 := by rw [cnt_q, h.cnt, Nat.mod_eq_of_lt inside]
  have nonzero : q.cnt ≠ 0#16 := fun zero => by simp [zero] at count
  obtain ⟨t, run, running, regs, cnt, act⟩ := h.toRunningA.play input.1 gen moves
  have len := run.frameLen_eq
  rw [RegsA.transport_of_inside (by rw [gen.atBoundary_eq]; exact decide_eq_false nonzero) ahead.served] at regs
  rw [if_neg nonzero, act_q, h.act] at act
  refine ⟨t, ?_, {
    toRunningA := running
    act := by rw [act, run.readFba_eq]
    ahead := by
      rw [len, run.fba]
      exact ⟨by simp [regs, ahead.pre], by simp [regs, ahead.ptr], by simp [regs, ahead.served]⟩
    cnt := by rw [cnt, count, run.cfg]
    waits := ?_ }⟩
  · rwa [act, decide_lt_eq count] at run
  · rw [len]
    by_cases before : k + 2 < frameLen s
    · rw [if_pos (.inl before)]
      simp [regs, phase, before]
    · rw [if_neg (by omega), decide_eq_false (by omega)]
      simp [regs, phase, before, clear (by omega)]

/-- The last tick of period `k` played, the next is the boundary of slot `k + 1`. -/
theorem Played.boundary (h : Played k j s) (more : k + 1 < frameLen s) (last : j + 1 = s.cfg.periodTicks)
    (input : undisturbed (nextInput s)) : ∃ t, BusyRun 1 s [slotLevel s (k + 1) 0] t ∧ Played (k + 1) 0 t := by
  obtain ⟨q, playing, cnt, -, -⟩ := h.playing more
  refine h.toRunningA.slot input playing (BitVec.eq_of_toNat_eq ?_) more
  rw [cnt, h.cnt, last, Nat.mod_self]
  rfl

/-- Armed, the first element queued. -/
structure Armed (s : State) : Prop extends RunningA s where
  state : s.a.tstate = .armed
  ahead : ReadUpTo s.fba (frameLen s) 0 s.a

/-- The tick `T0`: boundary 0. -/
theorem Armed.start (h : Armed s) (input : undisturbed (nextInput s)) :
    ∃ t, BusyRun 1 s [slotLevel s 0 0] t ∧ Played 0 0 t := by
  obtain ⟨phase, cnt, period, reader⟩ := h.toRunningA.phase.of_armed h.state
  obtain ⟨-, -, -, positive, -⟩ := s.cfg.legal_iff.mp h.inv.legal
  have inside : s.a.cnt.toNat < s.cfg.periodTicks := by
    rw [cnt, BitVec.toNat_ofNat]
    omega
  refine h.toRunningA.slot input (q := s.a.start) ⟨sequencerA_start h.state phase, ⟨rfl, rfl, rfl, period, inside⟩,
    ⟨reader.en, reader.sum, reader.tc⟩, ⟨h.ahead.pre, h.ahead.ptr, h.ahead.served⟩, ?_⟩ cnt (by simp [Config.lenA])
  rw [if_pos (by simp [Config.lenA]), RegsA.start_tphase]

/-- The tick `Ta` (R199). -/
theorem RunningA.arms (h : RunningA s) (phase : s.a.tphase = .preSettle) (elapsed : s.a.settleCnt = 0#16)
    (input : undisturbed (nextInput s)) : ∃ t, BusyRun 1 s [false] t ∧ Armed t := by
  have e := armTick s h.inv h.backend h.busy h.built phase elapsed input.1 input.2
  refine ⟨_, .tick input.1 h.busy (h.not_ready (sequencerA_arm phase elapsed)) e,
    ⟨invariantKept s _ h.inv e, h.backend, h.busy, h.built⟩, rfl, ?_, ?_, rfl⟩
  · rw [Nat.zero_min]; rfl
  · exact (Nat.min_eq_left (by simp [Config.lenA])).symm

/-! ### Period after period -/

/-- The levels of the ticks of a period after its boundary. -/
def restOfPeriod (s : State) (k : Nat) : List Bool := (List.range (s.cfg.periodTicks - 1)).map fun j => slotLevel s k (j + 1)

/-- From its boundary to its last tick. -/
theorem Played.restOfPeriod (h : Played k 0 s) (more : k + 1 < frameLen s)
    (inputs : inputsMeet undisturbed (s.cfg.periodTicks - 1) s) :
    ∃ t, BusyRun (s.cfg.periodTicks - 1) s (restOfPeriod s k) t ∧ Played k (s.cfg.periodTicks - 1) t := by
  have playing := BusyRun.ticks (n := s.cfg.periodTicks - 1) (level := fun j => slotLevel s k (j + 1))
    (Q := fun j t => Played k j t ∧ t.cfg = s.cfg ∧ frameLen t = frameLen s ∧ readFba t k = readFba s k) (I := undisturbed) ?_
    ⟨h, rfl, rfl, rfl⟩ inputs
  · obtain ⟨t, run, played, -⟩ := playing
    exact ⟨t, run, played⟩
  · rintro j t hj ⟨played, cfg, len, slot⟩ input
    obtain ⟨u, run, played⟩ := played.inside (by omega) (by rw [cfg]; omega) input
    rw [slotLevel, slot] at run
    exact ⟨u, run, played, run.cfg.trans cfg, run.frameLen_eq.trans len, (run.readFba_eq k).trans slot⟩

/-- From a boundary to the next. -/
theorem Played.period (h : Played k 0 s) (more : k + 1 < frameLen s) (inputs : inputsMeet undisturbed s.cfg.periodTicks s) :
    ∃ t, BusyRun s.cfg.periodTicks s (Machine.restOfPeriod s k ++ [slotLevel s (k + 1) 0]) t ∧ Played (k + 1) 0 t := by
  obtain ⟨-, -, -, positive, -⟩ := s.cfg.legal_iff.mp h.inv.legal
  have split : s.cfg.periodTicks - 1 + 1 = s.cfg.periodTicks := by omega
  rw [← split] at inputs
  obtain ⟨t, run, played⟩ := h.restOfPeriod more (inputs.of_le (Nat.le_add_right _ _))
  have len := run.frameLen_eq
  obtain ⟨u, last, reached⟩ := played.boundary (by omega) (by rw [run.cfg, split])
    ((inputs.of_after run.reaches).next Nat.one_pos)
  rw [slotLevel, run.readFba_eq] at last
  exact ⟨u, split ▸ run.trans last, reached⟩

/-- From boundary 0 to boundary `n`. -/
theorem Played.periods {n : Nat} (h : Played 0 0 s) (inFrame : n < frameLen s)
    (inputs : inputsMeet undisturbed (n * s.cfg.periodTicks) s) :
    ∃ t, BusyRun (n * s.cfg.periodTicks) s
      ((List.range n).flatMap fun k => Machine.restOfPeriod s k ++ [slotLevel s (k + 1) 0]) t ∧ Played n 0 t := by
  have playing := BusyRun.iterate (n := n) (d := s.cfg.periodTicks)
    (line := fun k => Machine.restOfPeriod s k ++ [slotLevel s (k + 1) 0])
    (Q := fun k t => Played k 0 t ∧ t.cfg = s.cfg ∧ frameLen t = frameLen s ∧ ∀ k, readFba t k = readFba s k) (I := undisturbed) ?_
    ⟨h, rfl, rfl, fun _ => rfl⟩ inputs
  · obtain ⟨t, run, played, -⟩ := playing
    exact ⟨t, run, played⟩
  · rintro k t hk ⟨played, cfg, len, slots⟩ inputs
    have line : Machine.restOfPeriod t k ++ [slotLevel t (k + 1) 0] = Machine.restOfPeriod s k ++ [slotLevel s (k + 1) 0] := by
      simp only [Machine.restOfPeriod, slotLevel, cfg, slots]
    rw [← cfg] at inputs
    rw [← cfg, ← line]
    obtain ⟨u, run, played⟩ := played.period (by omega) inputs
    exact ⟨u, run, played, run.cfg, run.frameLen_eq.trans len, fun k => (run.readFba_eq k).trans (slots k)⟩

/-- The line of the period of slot `k`. -/
def slotLine (s : State) (k : Nat) : List Bool := slotLevel s k 0 :: restOfPeriod s k

theorem slotLine_congr (cfg : t.cfg = s.cfg) (slots : ∀ k, readFba t k = readFba s k) : slotLine t = slotLine s := by
  funext k
  simp only [slotLine, restOfPeriod, slotLevel, cfg, slots]

theorem slotLine_eq_periodLine (positive : 0 < s.cfg.periodTicks) (bounded : (readFba s k).toNat ≤ s.cfg.periodTicks) :
    slotLine s k = periodLine s.cfg (readFba s k).toNat := by
  obtain ⟨p, ticks⟩ := Nat.exists_eq_succ_of_ne_zero (Nat.ne_of_gt positive)
  rw [periodLine_eq_map _ bounded, slotLine, restOfPeriod, ticks, Nat.succ_sub_one, Nat.succ_eq_add_one, List.range_succ_eq_map,
    List.map_cons, List.map_map]
  rfl

/-- The boundary ticks counted to the periods they begin. -/
theorem slotLine_flatMap (s : State) (n : Nat) :
    slotLevel s 0 0 :: (List.range n).flatMap (fun k => restOfPeriod s k ++ [slotLevel s (k + 1) 0]) =
      (List.range n).flatMap (slotLine s) ++ [slotLevel s n 0] := by
  induction n with
  | zero => rfl
  | succ n ih =>
    rw [List.range_succ, List.flatMap_append, List.flatMap_singleton, ← List.cons_append, ih, List.flatMap_append,
      List.flatMap_singleton, slotLine, List.append_assoc, List.append_assoc]
    rfl

/-- From the tick `Ta` to boundary `n`: the tick `Ta`, then `n` periods, then the boundary's tick. -/
theorem RunningA.transmits {n : Nat} (h : RunningA s) (phase : s.a.tphase = .preSettle) (elapsed : s.a.settleCnt = 0#16)
    (inFrame : n < frameLen s) (inputs : inputsMeet undisturbed (1 + (1 + n * s.cfg.periodTicks)) s) :
    ∃ t, BusyRun (1 + (1 + n * s.cfg.periodTicks)) s (false :: ((List.range n).flatMap (slotLine s) ++ [slotLevel s n 0])) t ∧
      Played n 0 t := by
  obtain ⟨a, arms, armed⟩ := h.arms phase elapsed (inputs.next (by omega))
  have inputs := inputs.of_after arms.reaches
  obtain ⟨g, starts, played⟩ := armed.start (inputs.next (by omega))
  have run := arms.trans starts
  have inputs := inputs.of_after starts.reaches
  rw [← run.cfg] at inputs
  obtain ⟨t, plays, reached⟩ := played.periods (run.frameLen_eq ▸ inFrame) inputs
  refine ⟨t, ?_, reached⟩
  have whole := arms.trans (starts.trans plays)
  simp only [restOfPeriod, slotLevel, run.readFba_eq, arms.readFba_eq, run.cfg] at whole
  rw [← slotLine_flatMap]
  exact whole

/-- Settles O35: what has been played when boundary `k` has. -/
theorem slotTimeline : Obligations.SlotTimeline := by
  intro s k h backend busy built phase elapsed inFrame noReset flows
  have running : RunningA s := ⟨h, backend, busy, built⟩
  have ticks : 2 + k * s.cfg.periodTicks = 1 + (1 + k * s.cfg.periodTicks) := by omega
  have inFrame : k < frameLen s := by simp only [Config.lenA] at inFrame ⊢; omega
  rw [ticks] at noReset flows ⊢
  obtain ⟨t, run, played⟩ := running.transmits phase elapsed inFrame fun j hj => ⟨noReset j hj, flows j hj⟩
  obtain ⟨-, -, reader⟩ := played.generating
  have sum := reader.sum
  have tc := played.dmaTc
  rw [run.frameLen_eq, frameLen] at sum tc
  have ahead := played.ahead
  rw [run.frameLen_eq, run.fba] at ahead
  exact ⟨t, run.reaches, played.act.trans (run.readFba_eq k), ahead.pre, ahead.ptr, by rw [← sum, Nat.add_sub_cancel_left],
    tc.trans Nat.sub_le_iff_le_add.symm⟩

/-! ### A settle, from its first tick to its last (R191, R207) -/

theorem inputsMeet.mono {I J : PortIn → Prop} {k : Nat} (h : inputsMeet I k s) (implies : ∀ p, I p → J p) :
    inputsMeet J k s := fun j hj => implies _ (h j hj)

/-- A settle counted down: low throughout, and nothing but `settle_cnt` moves. -/
theorem RunningA.settles {n : Nat} (h : RunningA s)
    (phase : s.a.tphase = .preSettle ∨ s.a.tphase = .postSettle ∨ s.a.tphase = .resetSettle) (count : s.a.settleCnt.toNat = n)
    (inputs : inputsMeet (fun p => p.rst = false) n s) :
    ∃ t, BusyRun n s (low n) t ∧ RunningA t ∧ t.a = { s.a with settleCnt := 0#16 } := by
  have settling := BusyRun.ticks (n := n) (level := fun _ => false) (I := fun p => p.rst = false)
    (Q := fun j t => RunningA t ∧ t.a = { s.a with settleCnt := BitVec.ofNat 16 (n - j) }) ?_
    ⟨h, by rw [← count, Nat.sub_zero, BitVec.ofNat_toNat, BitVec.setWidth_eq]⟩ inputs
  · obtain ⟨t, run, running, regs⟩ := settling
    rw [List.map_const', List.length_range] at run
    exact ⟨t, run, running, by rw [regs, Nat.sub_self]⟩
  · rintro j t hj ⟨running, regs⟩ noReset
    have phase_t : t.a.tphase = .preSettle ∨ t.a.tphase = .postSettle ∨ t.a.tphase = .resetSettle := by rw [regs]; exact phase
    have left : t.a.settleCnt ≠ 0#16 := by rw [regs]; bv_omega
    have e := settleTick t running.inv running.backend running.busy running.built phase_t left noReset
    refine ⟨_, .tick noReset running.busy (running.not_ready (sequencerA_settling phase_t left)) e,
      ⟨invariantKept t _ running.inv e, running.backend, running.busy, running.built⟩, ?_⟩
    have down : BitVec.ofNat 16 (n - j) - 1#16 = BitVec.ofNat 16 (n - (j + 1)) := by bv_omega
    simp only [regs, down]

/-- The line of a block that is ready and is sent nothing stays low (R207, R240). -/
theorem lineTrace_of_idle {m : Nat} (h : BlockInv s) (ready : readyNow s = true)
    (inputs : inputsMeet (fun p => p.rst = false ∧ p.cmd = none) m s) : lineTrace m s = low m := by
  induction m generalizing s with
  | zero => rfl
  | succ m ih =>
    obtain ⟨noReset, noCmd⟩ := inputs.next (Nat.succ_pos m)
    have idle := (readyNow_iff_not_busy s).mp ready
    obtain ⟨t, acts, inv⟩ := h.beginTick.sequencer.agents (nextInput s).stall
    have e : step s = .next t := (tick_no_cmd noReset noCmd).trans acts
    have still : t.busy = false := (agents_busy acts).trans idle
    have ready_t : readyNow t = true := by
      rw [readyNow, sequencer, if_neg (by simp [still]), cmdReady, beginTick_busy, still]
      rfl
    have low_t := dout_of_agents_rest h.beginTick.sequencer (.inl idle) acts
    rw [lineTrace_succ e, low_t, ih inv ready_t (inputs.of_step e)]
    rfl

/-! ### From the acceptance of a `show` to its transport (R160, R172, R190) -/

/-- A `show` accepted and `i` ticks before its transport starts; or started, with `n` ticks of its entry settle to come. -/
inductive Entering (n : Nat) : Nat → State → Prop where
  | settling {s : State} (running : RunningA s) (phase : s.a.tphase = .preSettle) (count : s.a.settleCnt = BitVec.ofNat 16 n) :
      Entering n 0 s
  | building {s : State} {i : Nat} (inv : BlockInv s) (backend : s.cfg.backend = .A) (busy : s.busy = true)
      (left : s.buildCnt = i + 1) : Entering n (i + 1) s

/-- The tick's agents keep the line low and count the settle, where it has begun. -/
theorem Entering.agents {i : Nat} (h : Entering s.cfg.settleTicks i s) (stall : Bool) :
    ∃ t, agents stall s = .next t ∧ t.dout = false ∧ Entering (s.cfg.settleTicks - 1) i t := by
  cases h with
  | settling running phase count =>
    obtain ⟨-, -, -, -, -, -, -, -, positive, bounded, -⟩ := s.cfg.legal_iff.mp running.inv.legal
    have quiet := running.phase.settling (.inl phase)
    have settling : s.a.settleCnt ≠ 0#16 := by rw [count]; bv_omega
    have down : s.a.settleCnt - 1#16 = BitVec.ofNat 16 (s.cfg.settleTicks - 1) := by rw [count]; bv_omega
    have acts := running.inv.agentsA_eq running.backend stall
    rw [quiet.transport, doutA_of_off quiet.pwm, RegsA.count_of_off quiet.pwm, RegsA.settleDown_of_settling settling, down] at acts
    exact ⟨_, acts, rfl,
      .settling ⟨inv_of_agents_next running.inv acts, running.backend, running.busy, running.built⟩ phase rfl⟩
  | building inv backend busy left =>
    have acts := agentsA_rest backend ((inv.onA backend).rest (.inr (by omega))) stall
    exact ⟨_, acts, rfl, .building (inv_of_agents_next inv acts) backend busy left⟩

/-- The sequencer's wait for the build, and its end (R172). -/
theorem Entering.await {n i : Nat} (h : Entering n (i + 1) s) : Entering s.cfg.settleTicks i (sequencer (beginTick s)) := by
  cases h with
  | building inv backend busy left =>
    have inv := inv.beginTick.sequencer
    have awaits : sequencer (beginTick s) = awaitBuild (beginTick s) := by simp [sequencer, busy, left]
    rw [awaits] at inv ⊢
    cases i with
    | zero =>
      have starts : awaitBuild (beginTick s) = startTransport { beginTick s with buildCnt := 0 } := if_pos left
      rw [starts] at inv ⊢
      refine .settling ⟨inv, by simpa using backend, by simpa using busy, by simp⟩ ?_ ?_ <;>
        simp [startTransport_eq, backend]
    | succ i =>
      have counts : awaitBuild (beginTick s) = { beginTick s with buildCnt := s.buildCnt - 1 } := if_neg (by simp [left])
      rw [counts] at inv ⊢
      exact .building inv backend busy (by simp [left])

theorem Entering.busy {n i : Nat} (h : Entering n i s) : s.busy = true := by
  cases h with
  | settling running => exact running.busy
  | building _ _ busy => exact busy

/-- The ticks of the build (R172). -/
theorem Entering.waits {i : Nat} (h : Entering (s.cfg.settleTicks - 1) i s) (inputs : inputsMeet (fun p => p.rst = false) i s) :
    ∃ t, BusyRun i s (low i) t ∧ Entering (s.cfg.settleTicks - 1) 0 t := by
  induction i generalizing s with
  | zero => exact ⟨s, .nil s, h⟩
  | succ i ih =>
    have noReset := inputs.next (Nat.succ_pos i)
    have begun := h.await
    have running : readyNow s = false := by rw [readyNow, cmdReady, begun.busy]; rfl
    obtain ⟨t, acts, level, h'⟩ := Entering.agents (s := sequencer (beginTick s)) (by simpa using begun) (nextInput s).stall
    have e : step s = .next t := (step_of_not_ready noReset running).trans acts
    have run := BusyRun.tick noReset h.busy running e
    have cfg : (sequencer (beginTick s)).cfg = t.cfg := by rw [run.cfg, sequencer_cfg]; rfl
    rw [cfg] at h'
    obtain ⟨u, others, reached⟩ := ih h' (inputs.of_step e)
    rw [run.cfg] at reached
    rw [level] at run
    have whole := run.trans others
    rw [Nat.add_comm] at whole
    exact ⟨u, whole, reached⟩

theorem beginShow_buildCnt (s : State) :
    (beginShow s).buildCnt = if s.cfg.buildTicks = 0 then s.buildCnt else s.cfg.buildTicks := by
  unfold beginShow
  by_cases immediate : s.cfg.buildTicks = 0 <;> simp [immediate]

/-- What a valid `show` leaves for the agents of its tick. -/
theorem Entering.of_beginShow (h : BlockInv s) (backend : s.cfg.backend = .A) (idle : s.busy = false)
    (count : 1 ≤ s.strip.count.toNat) : Entering s.cfg.settleTicks s.cfg.buildTicks (beginShow s) := by
  have inv : BlockInv (beginShow s) := h.command idle (.showing (by rwa [liveCount_eq h.strip]) idle)
  have built := beginShow_buildCnt s
  have regs := beginShow_a s
  cases ticks : s.cfg.buildTicks with
  | zero =>
    rw [ticks, if_pos rfl] at built
    rw [ticks, if_pos ⟨backend, rfl⟩] at regs
    exact .settling ⟨inv, by simpa using backend, beginShow_busy s, built.trans (h.buildCnt_eq_zero idle)⟩ (by rw [regs]; rfl)
      (by rw [regs]; rfl)
  | succ i =>
    rw [ticks, if_neg (Nat.succ_ne_zero i)] at built
    exact .building inv (by simpa using backend) (beginShow_busy s) built

/-! ### A whole `show` on the line (R204, R207) -/

/-- The state a `show` accepted in the coming tick makes, before that tick's agents: the frame is built. -/
def shown (s : State) : State := beginShow (sequencer (beginTick s))

@[simp] theorem shown_cfg (s : State) : (shown s).cfg = s.cfg := by simp [shown]

/-- A `show` accepted in the coming tick, followed for `d` ticks. -/
structure ShowRun (d : Nat) (s : State) (line : List Bool) (t : State) : Prop where
  reaches : after d s = .next t
  line : lineTrace d s = line
  busy : busyFor d s
  cfg : t.cfg = s.cfg
  strip : t.strip = s.strip
  fba : t.fba = (shown s).fba

theorem ShowRun.trans {d d' : Nat} {line line' : List Bool} (h : ShowRun d s line t) (h' : BusyRun d' t line' u) :
    ShowRun (d + d') s (line ++ line') u where
  reaches := (after_add h.reaches d').trans h'.reaches
  line := by rw [lineTrace_add h.reaches, h.line, h'.line]
  busy := fun j positive hj => by
    by_cases first : j < d
    · exact h.busy j positive first
    · obtain ⟨i, rfl⟩ := Nat.exists_eq_add_of_le (Nat.le_of_not_lt first)
      rw [after_add h.reaches]
      exact h'.busy i (by omega)
  cfg := h'.cfg.trans h.cfg
  strip := h'.strip.trans h.strip
  fba := h'.fba.trans h.fba

/-- A valid `show` of at least one LED is accepted in the coming tick. -/
structure ShowComes (s : State) : Prop where
  inv : BlockInv s
  backend : s.cfg.backend = .A
  ready : readyNow s = true
  called : ∃ w, (nextInput s).cmd = some w ∧ decodeCmd w = .showFrame true
  count : 1 ≤ s.strip.count.toNat

variable {n : Nat}

/-- The tick of the acceptance. -/
theorem ShowComes.accepted (h : ShowComes s) (noReset : (nextInput s).rst = false) :
    ∃ t, ShowRun 1 s (low 1) t ∧ Entering (s.cfg.settleTicks - 1) s.cfg.buildTicks t := by
  obtain ⟨w, presented, word⟩ := h.called
  have idle := (readyNow_iff_not_busy s).mp h.ready
  have inv := h.inv.beginTick.sequencer
  have count : 1 ≤ (sequencer (beginTick s)).strip.count.toNat := by simpa using h.count
  have begun := Entering.of_beginShow inv (by simpa using h.backend) idle count
  rw [← beginShow_cfg] at begun
  obtain ⟨t, acts, level, entering⟩ := begun.agents (nextInput s).stall
  have e : step s = .next t := by
    rw [step, tick_cmd noReset presented idle, word, exec_showFrame_eq inv idle count]
    exact acts
  have frame := agents_next acts
  refine ⟨t, ⟨(after_one s).trans e, by rw [lineTrace_succ e, level]; rfl, fun j positive hj => by omega, ?_, ?_, ?_⟩, ?_⟩
  · rw [frame]; simp
  · rw [frame]; simp
  · rw [frame]; rfl
  · simpa using entering

/-- Build and entry settle: low until the tick before `Ta`. -/
theorem ShowComes.settled (h : ShowComes s) (inputs : inputsMeet undisturbed (s.cfg.buildTicks + s.cfg.settleTicks) s) :
    ∃ t, ShowRun (s.cfg.buildTicks + s.cfg.settleTicks) s (low s.cfg.buildTicks ++ low s.cfg.settleTicks) t ∧ RunningA t ∧
      t.a.tphase = .preSettle ∧ t.a.settleCnt = 0#16 := by
  obtain ⟨-, -, -, -, -, -, -, -, positive, bounded, -⟩ := s.cfg.legal_iff.mp h.inv.legal
  have ticks : s.cfg.buildTicks + s.cfg.settleTicks = 1 + (s.cfg.buildTicks + (s.cfg.settleTicks - 1)) := by omega
  have levels : low s.cfg.buildTicks ++ low s.cfg.settleTicks =
      low 1 ++ low s.cfg.buildTicks ++ low (s.cfg.settleTicks - 1) := by
    simp only [low, List.replicate_append_replicate]
    congr 1
    omega
  rw [ticks] at inputs ⊢
  rw [levels, ← Nat.add_assoc]
  have inputs := inputs.mono fun p (normal : undisturbed p) => normal.1
  obtain ⟨t, accepts, entering⟩ := h.accepted (inputs.next (by omega))
  have inputs := inputs.of_after accepts.reaches
  rw [← accepts.cfg] at inputs entering ⊢
  obtain ⟨u, builds, entered⟩ := entering.waits (inputs.of_le (Nat.le_add_right _ _))
  cases entered with
  | settling running phase count =>
    obtain ⟨v, settles, done, regs⟩ := running.settles (n := t.cfg.settleTicks - 1) (.inl phase)
      (by rw [count, BitVec.toNat_ofNat, Nat.mod_eq_of_lt (by rw [accepts.cfg]; omega)]) (inputs.of_after builds.reaches)
    exact ⟨v, (accepts.trans builds).trans settles, done, by rw [regs]; exact phase, by rw [regs]⟩

/-- Up to boundary `n`. -/
theorem ShowComes.transmits (h : ShowComes s) (inFrame : n < frameLen s) (inputs : inputsMeet undisturbed
      (s.cfg.buildTicks + s.cfg.settleTicks + (1 + (1 + n * s.cfg.periodTicks))) s) :
    ∃ t, ShowRun (s.cfg.buildTicks + s.cfg.settleTicks + (1 + (1 + n * s.cfg.periodTicks))) s
      (low s.cfg.buildTicks ++ low s.cfg.settleTicks ++
        false :: ((List.range n).flatMap (slotLine (shown s)) ++ [slotLevel (shown s) n 0])) t ∧ Played n 0 t := by
  obtain ⟨e, enters, running, phase, elapsed⟩ := h.settled (inputs.of_le (Nat.le_add_right _ _))
  have inputs := inputs.of_after enters.reaches
  rw [← enters.cfg] at inputs
  obtain ⟨t, plays, played⟩ := running.transmits phase elapsed (by rwa [frameLen, enters.strip]) inputs
  refine ⟨t, ?_, played⟩
  have whole := enters.trans plays
  have slots : ∀ k, readFba e k = readFba (shown s) k := fun k => by rw [readFba, enters.fba, readFba]
  rw [enters.cfg, slotLine_congr (enters.cfg.trans (shown_cfg s).symm) slots, slotLevel, slots] at whole
  exact whole

/-- The trailing guard cut short: the sequencer sees its boundary and stops the generator (R201). -/
theorem Played.stops (h : Played k 0 s) (last : k + 1 = frameLen s) (noReset : (nextInput s).rst = false) :
    ∃ t, BusyRun 1 s [false] t ∧ RunningA t ∧
      t.a = { s.a.stop s.cfg with settleCnt := BitVec.ofNat 16 (s.cfg.settleTicks - 1) } := by
  have waits := h.waits
  rw [if_neg (by omega), decide_eq_true last] at waits
  have e := h.toRunningA.step_stop noReset waits.1 waits.2
  exact ⟨_, .tick noReset h.busy (h.not_ready (sequencerA_waitUev_done waits.1 waits.2)) e,
    ⟨invariantKept s _ h.inv e, h.backend, h.busy, h.built⟩, rfl⟩

/-- The slots of a shown frame are its guards and the codes of its bits (R108). -/
theorem ShowComes.readFba_shown (h : ShowComes s) : readFba (shown s) 0 = 0#16 ∧
    (∀ m, m < 24 * s.strip.count.toNat → readFba (shown s) (m + 1) = s.cfg.codeA ((shownBits s).getD m false)) ∧
    readFba (shown s) (24 * s.strip.count.toNat + 1) = 0#16 := by
  have memory := h.inv.beginTick.sequencer.memory
  have backend : (sequencer (beginTick s)).cfg.backend = .A := by simpa using h.backend
  have bits : shownBits (sequencer (beginTick s)) = shownBits s := by simp [shownBits]
  refine ⟨?_, fun m hm => ?_, ?_⟩
  · rw [shown, readFba_beginShow backend memory, if_pos (by simp [Config.lenA]), frameA_getD_first]
  · rw [shown, Nat.add_comm, readFba_beginShow_data backend memory (by simpa using hm), bits]
    simp
  · rw [shown, readFba_beginShow backend memory, if_pos (by simp [Config.lenA]), sequencer_strip, beginTick_strip,
      frameA_getD_last]

/-- The periods of a shown frame: the leading guard, then one period per bit (R204). -/
theorem ShowComes.periods (h : ShowComes s) : (List.range (24 * s.strip.count.toNat + 1)).flatMap (slotLine (shown s)) =
    periodLine s.cfg 0 ++ (shownBits s).flatMap fun bit => periodLine s.cfg (s.cfg.codeA bit).toNat := by
  obtain ⟨first, data, -⟩ := h.readFba_shown
  obtain ⟨-, -, -, positive, -, -, increasing, below, -⟩ := s.cfg.legal_iff.mp h.inv.legal
  have inside : ∀ bit, (s.cfg.codeA bit).toNat ≤ s.cfg.periodTicks := fun bit => by
    rw [codeA_toNat h.inv.legal]
    split <;> omega
  have guard : slotLine (shown s) 0 = periodLine s.cfg 0 := by
    rw [slotLine_eq_periodLine (by simpa using by omega) (by simp [first]), first, shown_cfg]
    rfl
  have slot : ∀ m, m < (shownBits s).length →
      slotLine (shown s) (m + 1) = periodLine s.cfg (s.cfg.codeA ((shownBits s).getD m false)).toNat := fun m hm => by
    have code := data m (by simpa using hm)
    rw [slotLine_eq_periodLine (by simpa using by omega) (by rw [code, shown_cfg]; exact inside _), code, shown_cfg]
  rw [List.range_succ_eq_map, List.flatMap_cons, guard, List.flatMap_map, List.flatMap_def, List.flatMap_def,
    ← map_range_eq_map_of_getD false (shownBits s) slot, shownBits_length]

/-- What the registers hold when the exit settle is over (R207). -/
structure FinishedA (r : RegsA) : Prop where
  phase : r.tphase = .postSettle
  quiet : QuietA r
  pre : r.ccrPre = 0#16
  act : r.ccrAct = 0#16
  tc : r.dmaTc = true
  uif : r.uif = true
  cnt : r.cnt = 1#16
  elapsed : r.settleCnt = 0#16

/-- At the boundary of a trailing guard everything is as R207 says, but for the generator, which is still to be stopped. -/
theorem Played.finished (h : Played k 0 s) (last : k + 1 = frameLen s) (guard : readFba s k = 0#16) :
    FinishedA { s.a.stop s.cfg with settleCnt := 0#16 } := by
  obtain ⟨-, -, -, positive, -⟩ := s.cfg.legal_iff.mp h.inv.legal
  have waits := h.waits
  rw [if_neg (by omega), decide_eq_true last] at waits
  have pre := h.ahead.pre
  rw [show min (k + 1) (frameLen s - 1) = k by omega] at pre
  have cnt : s.a.cnt.toNat = 1 := by rw [h.cnt, Nat.zero_add, Nat.mod_eq_of_lt (by omega)]
  exact ⟨rfl, ⟨rfl, rfl, rfl, rfl, rfl⟩, pre.trans guard, h.act.trans guard, h.dmaTc.mpr (by omega), waits.2,
    BitVec.eq_of_toNat_eq cnt, rfl⟩

/-- The line of a whole `show`, from its acceptance to the end of its exit settle (R204). -/
def showLine (s : State) : List Bool :=
  low s.cfg.buildTicks ++ low s.cfg.settleTicks ++ low 1 ++ periodLine s.cfg 0 ++
    (shownBits s).flatMap (fun bit => periodLine s.cfg (s.cfg.codeA bit).toNat) ++ low 1 ++ low s.cfg.settleTicks

/-- The duration of a `show`, cut at the boundary of its trailing guard. -/
theorem showTicksA_eq {c : Config} (legal : c.legal = true) (n : Nat) : showTicksA c n =
    c.buildTicks + c.settleTicks + (1 + (1 + (24 * n + 1) * c.periodTicks)) + (1 + (c.settleTicks - 1)) := by
  obtain ⟨-, -, -, -, -, -, -, -, positive, -⟩ := c.legal_iff.mp legal
  rw [showTicksA, Config.lenA, show 24 * n + 2 - 1 = 24 * n + 1 by omega]
  omega

/-- To its last tick. -/
theorem ShowComes.finishes (h : ShowComes s) (inputs : inputsMeet undisturbed (showTicksA s.cfg s.strip.count.toNat) s) :
    ∃ t, ShowRun (showTicksA s.cfg s.strip.count.toNat) s (showLine s) t ∧ RunningA t ∧ FinishedA t.a := by
  obtain ⟨-, -, -, -, -, -, -, -, positive, bounded, -⟩ := s.cfg.legal_iff.mp h.inv.legal
  have guard := h.readFba_shown.2.2
  rw [showTicksA_eq h.inv.legal] at inputs ⊢
  obtain ⟨x, plays, played⟩ := h.transmits (n := 24 * s.strip.count.toNat + 1) (by simp [Config.lenA])
    (inputs.of_le (Nat.le_add_right _ _))
  have inputs := inputs.of_after plays.reaches
  have last : 24 * s.strip.count.toNat + 1 + 1 = frameLen x := by rw [frameLen, plays.strip, Config.lenA]
  have guard_x : readFba x (24 * s.strip.count.toNat + 1) = 0#16 := by rw [readFba, plays.fba, ← readFba, guard]
  obtain ⟨y, stops, stopped, regs⟩ := played.stops last (inputs.next (by omega)).1
  have inputs := (inputs.of_after stops.reaches).mono fun p (normal : undisturbed p) => normal.1
  have phase : y.a.tphase = .postSettle := by rw [regs]; rfl
  have count : y.a.settleCnt.toNat = s.cfg.settleTicks - 1 := by
    rw [regs, plays.cfg, BitVec.toNat_ofNat, Nat.mod_eq_of_lt (by omega)]
  obtain ⟨t, settles, running, done⟩ := stopped.settles (.inr (.inl phase)) count inputs
  refine ⟨t, ?_, running, ?_⟩
  · have whole := plays.trans (stops.trans settles)
    rw [h.periods, slotLevel, guard] at whole
    have line : low s.cfg.buildTicks ++ low s.cfg.settleTicks ++ false :: (periodLine s.cfg 0 ++
        (shownBits s).flatMap (fun bit => periodLine s.cfg (s.cfg.codeA bit).toNat) ++ [decide (0 < (0#16).toNat)]) ++
        ([false] ++ low (s.cfg.settleTicks - 1)) = showLine s := by
      have exits : [false] ++ low (s.cfg.settleTicks - 1) = low s.cfg.settleTicks := by
        rw [show [false] = low 1 from rfl, low, low, List.replicate_append_replicate, Nat.add_sub_cancel' positive, ← low]
      rw [exits, showLine]
      simp [low]
    exact line ▸ whole
  · rw [done, regs]
    exact played.finished last guard_x

/-- The bits of a `show` are read off its line (R118). -/
theorem decodeLine_showLine (legal : s.cfg.legal = true) (backend : s.cfg.backend = .A)
    (sides : discriminable s.cfg = true) : decodeLine s.cfg s.strip.count.toNat (showLine s) = some (shownBits s) := by
  have lead : (low s.cfg.buildTicks ++ low s.cfg.settleTicks ++ low 1 ++ periodLine s.cfg 0).length = dataStart s.cfg := by
    simp [low, periodLine, dataStart, backend]
    omega
  have window : windowTicks s.cfg = s.cfg.periodTicks := by rw [windowTicks, backend]
  rw [decodeLine, showLine, List.append_assoc, List.append_assoc, List.drop_left' lead, window, ← shownBits_length]
  exact ((discriminatorReadsBothShapes s.cfg true legal).2.2.2 sides (shownBits s) _).1 backend

/-- ARMED from the tick `Ta` on. -/
theorem ShowComes.arms (h : ShowComes s) (inputs : inputsMeet undisturbed (s.cfg.buildTicks + s.cfg.settleTicks + 1) s) :
    ∃ u, after (s.cfg.buildTicks + s.cfg.settleTicks + 1) s = .next u ∧ u.a.tstate = .armed := by
  obtain ⟨e, enters, running, phase, elapsed⟩ := h.settled (inputs.of_le (Nat.le_add_right _ _))
  obtain ⟨t, arms, armed⟩ := running.arms phase elapsed ((inputs.of_after enters.reaches).next Nat.one_pos)
  exact ⟨t, (enters.trans arms).reaches, armed.state⟩

/-- TRANSMITTING from the tick `T0` on. -/
theorem ShowComes.starts (h : ShowComes s) (inputs : inputsMeet undisturbed (s.cfg.buildTicks + s.cfg.settleTicks + 2) s) :
    ∃ u, after (s.cfg.buildTicks + s.cfg.settleTicks + 2) s = .next u ∧ u.a.tstate = .transmitting ∧ u.a.pwmEn = true := by
  obtain ⟨t, run, played⟩ := h.transmits (n := 0) (by simp [Config.lenA]) (by rwa [Nat.zero_mul])
  obtain ⟨state, gen, -⟩ := played.generating
  have reaches := run.reaches
  rw [Nat.zero_mul] at reaches
  exact ⟨t, reaches, state, gen.pwm⟩

/-- `dma_tc` rises in the tick of the boundary before the last (R200). -/
theorem ShowComes.completes (h : ShowComes s) (inputs : inputsMeet undisturbed (showTicksA s.cfg s.strip.count.toNat) s) :
    ∃ u v, after (s.cfg.buildTicks + s.cfg.settleTicks + 1 + (frameLen s - 2) * s.cfg.periodTicks) s = .next u ∧
      u.a.dmaTc = false ∧ step u = .next v ∧ v.a.dmaTc = true := by
  obtain ⟨-, -, -, positive, -⟩ := s.cfg.legal_iff.mp h.inv.legal
  obtain ⟨k, slots⟩ : ∃ k, frameLen s = k + 3 := ⟨frameLen s - 3, by have := h.count; simp only [Config.lenA]; omega⟩
  have ticks : s.cfg.buildTicks + s.cfg.settleTicks + 1 + (frameLen s - 2) * s.cfg.periodTicks =
      s.cfg.buildTicks + s.cfg.settleTicks + (1 + (1 + k * s.cfg.periodTicks)) + (s.cfg.periodTicks - 1) := by
    rw [slots, show k + 3 - 2 = k + 1 by omega, Nat.succ_mul]
    omega
  have within : s.cfg.buildTicks + s.cfg.settleTicks + (1 + (1 + k * s.cfg.periodTicks)) + (s.cfg.periodTicks - 1) + 1 ≤
      showTicksA s.cfg s.strip.count.toNat := by
    rw [showTicksA_eq h.inv.legal, show 24 * s.strip.count.toNat + 1 = k + 1 + 1 by simp only [Config.lenA] at slots; omega,
      Nat.succ_mul, Nat.succ_mul]
    omega
  have inputs := inputs.of_le within
  rw [ticks]
  obtain ⟨x, plays, played⟩ := h.transmits (n := k) (by omega)
    (inputs.of_le (Nat.le_trans (Nat.le_add_right _ _) (Nat.le_add_right _ _)))
  have inputs := (Nat.add_assoc _ _ _ ▸ inputs).of_after plays.reaches
  have len_x : frameLen x = k + 3 := by rw [frameLen, plays.strip]; exact slots
  rw [← plays.cfg] at inputs
  obtain ⟨u, rest, played_u⟩ := played.restOfPeriod (by omega) (inputs.of_le (Nat.le_add_right _ _))
  have len_u : frameLen u = k + 3 := rest.frameLen_eq.trans len_x
  obtain ⟨v, tick, played_v⟩ := played_u.boundary (by omega) (by rw [rest.cfg, plays.cfg]; omega)
    ((inputs.of_after rest.reaches).next Nat.one_pos)
  have len_v : frameLen v = k + 3 := tick.frameLen_eq.trans len_u
  have reaches := (plays.trans rest).reaches
  rw [plays.cfg] at reaches
  refine ⟨u, v, reaches, ?_, (after_one u).symm.trans tick.reaches, played_v.dmaTc.mpr (by omega)⟩
  rw [← Bool.not_eq_true, played_u.dmaTc]
  omega

/-- The generator goes off in the tick after the boundary of the trailing guard (R201). -/
theorem ShowComes.stops (h : ShowComes s) (inputs : inputsMeet undisturbed (showTicksA s.cfg s.strip.count.toNat) s) :
    ∃ u v, after (s.cfg.buildTicks + s.cfg.settleTicks + 2 + (frameLen s - 1) * s.cfg.periodTicks) s = .next u ∧
      u.a.pwmEn = true ∧ step u = .next v ∧ v.a.pwmEn = false := by
  rw [showTicksA_eq h.inv.legal] at inputs
  have ticks : s.cfg.buildTicks + s.cfg.settleTicks + 2 + (frameLen s - 1) * s.cfg.periodTicks =
      s.cfg.buildTicks + s.cfg.settleTicks + (1 + (1 + (24 * s.strip.count.toNat + 1) * s.cfg.periodTicks)) := by
    rw [show frameLen s - 1 = 24 * s.strip.count.toNat + 1 from rfl]
    omega
  rw [ticks]
  obtain ⟨u, plays, played⟩ := h.transmits (n := 24 * s.strip.count.toNat + 1) (by simp [Config.lenA])
    (inputs.of_le (Nat.le_add_right _ _))
  obtain ⟨-, gen, -⟩ := played.generating
  obtain ⟨v, tick, -, regs⟩ := played.stops (by rw [frameLen, plays.strip, Config.lenA])
    ((inputs.of_after plays.reaches).next (by omega)).1
  exact ⟨u, v, plays.reaches, gen.pwm, (after_one u).symm.trans tick.reaches, by rw [regs]; rfl⟩

/-- A settle over leaves the block ready (R171). -/
theorem RunningA.ready (h : RunningA s) (phase : s.a.tphase = .postSettle) (elapsed : s.a.settleCnt = 0#16) :
    readyNow s = true := by
  rw [readyNow, h.sequencer_eq, sequencerA_rest phase elapsed]
  rfl

/-- Settles O36: acceptance, build, settle, the slots of the frame, stop and settle, one run after another. -/
theorem showOnTheLineA : Obligations.ShowOnTheLineA := by
  intro s w inv backend ready presented word count noReset flows c len
  have h : ShowComes s := ⟨inv, backend, ready, ⟨w, presented, word⟩, count⟩
  have inputs : inputsMeet undisturbed (showTicksA s.cfg s.strip.count.toNat) s := fun j hj => ⟨noReset j hj, flows j hj⟩
  have ticks := showTicksA_eq inv.legal s.strip.count.toNat
  obtain ⟨t, run, running, finished⟩ := h.finishes inputs
  have ready_t := running.ready finished.phase finished.elapsed
  have state := running.phase.postSettle_tstate finished.phase
  refine ⟨fun m noReset noCmd => ?_, fun sides => ?_, run.busy, h.arms (inputs.of_le (by omega)),
    h.starts (inputs.of_le (by omega)), h.completes inputs, h.stops inputs, t, run.reaches, ready_t, run.strip, state,
    finished.phase, finished.quiet.pin, finished.quiet.pwm, finished.quiet.oe, finished.pre, finished.act, finished.tc,
    finished.uif, finished.quiet.en, finished.cnt, finished.elapsed, fun noReset noCmd => ?_⟩
  · have quiet : inputsMeet (fun p => p.rst = false ∧ p.cmd = none) m t := fun j hj =>
      ⟨noRst_of_after run.reaches noReset j hj, by rw [inputAt_of_after run.reaches]; exact noCmd j hj⟩
    rw [lineTrace_add run.reaches, run.line, lineTrace_of_idle running.inv ready_t quiet, showLine]
    simp only [codeA_toNat inv.legal]
    rfl
  · rw [run.line]
    exact decodeLine_showLine inv.legal backend sides
  · exact ⟨_, running.step_rest noReset noCmd finished.phase finished.elapsed, rfl, rfl⟩

end Sys2Proof.Machine
end

section
/-! PROOFS. The Backend B transport (43_transport_b.md): the byte loop and the serializer tick by tick, a stream from its first tick to its
last, and the run of a `show`. -/

namespace Sys2Proof.Machine

variable {s t u : State}

/-! ### The serializer's tick (R232) -/

/-- The register shifted left by one, bit 7 lost. -/
theorem shiftLeft_one_eq (y : Byte) : y <<< (1 : Nat) = BitVec.ofNat 8 (2 * y.toNat) := by bv_omega

/-- Settles O39: load, output and end of tick, with `RegsB.load` and `RegsB.shift` written out. -/
theorem serializerStep : Obligations.SerializerStep := by
  intro s backend l
  have loaded : s.b.load = l := rfl
  rw [serialize_eq (s := loadB s) backend, endTickB, loadB_b, loaded]
  by_cases idle : l.srCnt = 0#4
  · simp [doutB, RegsB.shift, idle, loadB]
  · simp [doutB, RegsB.shift, idle, loadB, shiftLeft_one_eq]

/-! ### The byte loop's tick (R231, R233, R235) -/

/-- The byte at position `p` of the stream that the registers and the buffer describe (R231). -/
def streamAt (s : State) (p : Nat) : Byte :=
  if s.cfg.resetBytes ≤ p ∧ p + s.cfg.resetBytes < s.b.blen.toNat then readFbb s (p - s.cfg.resetBytes) else 0#8

theorem streamByte_eq (s : State) : streamByte s = streamAt s s.b.bpos.toNat := by
  by_cases data : s.cfg.resetBytes ≤ s.b.bpos.toNat ∧ s.b.bpos.toNat + s.cfg.resetBytes < s.b.blen.toNat
  · rw [streamByte, streamIndex, if_pos data, streamAt, if_pos data]
  · rw [streamByte, streamIndex, if_neg data, streamAt, if_neg data]

/-- The Backend B registers when the byte loop has had its turn. -/
def loopedB (s : State) : RegsB := if sending s then s.b.send (streamAt s s.b.bpos.toNat) else s.b

/-- The byte loop of a busy block. -/
theorem BlockInv.byteLoop_eq (h : BlockInv s) (backend : s.cfg.backend = .B) (busy : s.busy = true) (built : s.buildCnt = 0) :
    byteLoop s = .next { s with b := loopedB s } := by
  rw [Machine.byteLoop_eq backend fun k hk => streamIndex_lt h.strip ((h.onB backend).run busy built).length hk, streamByte_eq,
    loopedB]
  split <;> rfl

/-- When a busy block's byte loop writes (R233, R235). -/
theorem BlockInv.sending_iff (h : BlockInv s) (backend : s.cfg.backend = .B) (busy : s.busy = true) (built : s.buildCnt = 0) :
    sending s = true ↔ s.b.drFull = false ∧ s.b.bpos ≠ s.b.blen := by
  have inside := ((h.onB backend).run busy built).inside
  have left : s.b.bpos < s.b.blen ↔ s.b.bpos ≠ s.b.blen := by bv_omega
  simp [sending, txe, busy, built, backend, left, and_comm]

/-- Settles O40: the byte loop writes where `sending` says so, and the byte is `streamAt` its position. -/
theorem byteLoopStep : Obligations.ByteLoopStep := by
  intro s h backend busy built length
  have sends := h.sending_iff backend busy built
  rw [h.byteLoop_eq backend busy built, loopedB]
  refine ⟨fun off => ?_, fun empty left => ?_⟩
  · rw [if_neg fun on => ?_]
    obtain ⟨empty, left⟩ := sends.mp on
    rcases off with full | sent
    · rw [full] at empty; cases empty
    · exact left sent
  · have table : streamAt s s.b.bpos.toNat =
        if s.b.bpos.toNat < s.cfg.resetBytes then 0#8
        else if s.b.bpos.toNat < s.cfg.resetBytes + Config.lenB s.strip.count.toNat then
          readFbb s (s.b.bpos.toNat - s.cfg.resetBytes)
        else 0#8 := by
      rw [streamAt, length]
      by_cases lead : s.b.bpos.toNat < s.cfg.resetBytes
      · rw [if_neg (by omega), if_pos lead]
      · rw [if_neg lead]
        exact if_congr (by omega) rfl rfl
    rw [if_pos (sends.mpr ⟨empty, left⟩), RegsB.send, table]

/-! ### The data register between byte loop and serializer (R231, R232, R235) -/

/-- Of the stream `ys` the serializer has taken the first `k` bytes, and the data register has what the byte loop wrote last. -/
structure Fed (ys : List Byte) (k : Nat) (r : RegsB) : Prop where
  taken : r.bpos.toNat = k + r.drFull.toNat
  last : 0 < r.bpos.toNat → r.dr = ys.getD (r.bpos.toNat - 1) 0#8

section
variable {ys : List Byte} {k : Nat} {r : RegsB}

theorem Fed.shift (h : Fed ys k r) (c : Config) : Fed ys k (r.shift c) :=
  ⟨by simpa using h.taken, by simpa using h.last⟩

theorem Fed.send (h : Fed ys k r) (empty : r.drFull = false) (room : r.bpos.toNat < r.blen.toNat) :
    Fed ys k (r.send (ys.getD r.bpos.toNat 0#8)) := by
  have taken := h.taken
  have next : (r.bpos + 1#16).toNat = r.bpos.toNat + 1 := by have := r.blen.isLt; bv_omega
  rw [empty] at taken
  exact ⟨by rw [RegsB.send_bpos, next, taken]; rfl, fun _ => by rw [RegsB.send_bpos, next]; rfl⟩

/-- An idle serializer takes the waiting byte, bit 7 first. -/
theorem Fed.load (h : Fed ys k r) (idle : r.srCnt = 0#4) (full : r.drFull = true) :
    HoldsBits 7 (ys.getD k 0#8) 0 r ∧ Fed ys (k + 1) r.load := by
  have taken := h.taken
  rw [full, Bool.toNat_true] at taken
  have last := h.last (by omega)
  have loads : r.load = { r with sr := r.dr, srCnt := 8#4, sbitCnt := 0, drFull := false } := if_pos ⟨idle, full⟩
  refine ⟨⟨by rw [loads]; rfl, ?_, by rw [loads]⟩, ⟨by rw [loads]; exact taken, by simpa using h.last⟩⟩
  rw [loads]
  exact last.trans (by rw [taken]; rfl)

end

/-! ### The last bit of a byte (R232) -/

/-- The serializer has sent its last bit: idle, the register shifted out. -/
theorem HoldsBits.shift_out {c : Config} {y : Byte} {j : Nat} {r : RegsB} (h : HoldsBits 0 y j r) (last : j + 1 = c.sbitTicks) :
    (r.load.shift c).srCnt = 0#4 ∧ (r.load.shift c).sr = y <<< (1 : Nat) ∧ (r.load.shift c).sbitCnt = 0 := by
  have bits := h.bits
  rw [← h.ticks] at last
  rw [RegsB.shift_last h.running last, h.word]
  exact ⟨by bv_omega, rfl, rfl⟩

/-- Short of that it stays busy. -/
theorem HoldsBits.shift_running {c : Config} {n j : Nat} {y : Byte} {r : RegsB} (h : HoldsBits n y j r)
    (more : n ≠ 0 ∨ j + 1 ≠ c.sbitTicks) : (r.load.shift c).srCnt ≠ 0#4 := by
  have bits := h.bits
  rw [← h.ticks] at more
  by_cases last : r.load.sbitCnt + 1 = c.sbitTicks
  · have left := more.resolve_right (not_not_intro last)
    rw [RegsB.shift_last h.running last]
    show r.load.srCnt - 1#4 ≠ 0#4
    bv_omega
  · rw [RegsB.shift_within h.running last]
    exact h.running

/-! ### A stream on its way (R231, R235, R236) -/

/-- The registers of a transport that has sent `b` bits of the stream `ys` and the next one for `j` ticks: between two bytes, or with a
byte in the serializer. -/
inductive SentB (ys : List Byte) : Nat → Nat → RegsB → Prop where
  | between {k : Nat} {r : RegsB} (idle : r.srCnt = 0#4) (fed : Fed ys k r) (out : 0 < k → r.sr = 0#8 ∧ r.sbitCnt = 0) :
      SentB ys (8 * k) 0 r
  | within {k m j : Nat} {r : RegsB} (inside : m < 8) (holds : HoldsBits (7 - m) (ys.getD k 0#8 <<< m) j r)
      (fed : Fed ys (k + 1) r.load) : SentB ys (8 * k + m) j r

/-- One tick on: the same bit, the next bit of the byte, or past the byte's last. -/
theorem SentB.shift {ys : List Byte} {b j : Nat} {r : RegsB} {c : Config}
    (holds : HoldsBits (7 - b % 8) (ys.getD (b / 8) 0#8 <<< (b % 8)) j r) (fed : Fed ys (b / 8 + 1) r.load) :
    SentB ys (if j + 1 = c.sbitTicks then b + 1 else b) (if j + 1 = c.sbitTicks then 0 else j + 1) (r.load.shift c) := by
  have goes_on (running : (r.load.shift c).srCnt ≠ 0#4) : Fed ys (b / 8 + 1) (r.load.shift c).load := by
    rw [RegsB.load_of_running running]
    exact fed.shift c
  split_ifs with last
  · by_cases final : b % 8 = 7
    · rw [final] at holds
      obtain ⟨idle, out, ticks⟩ := holds.shift_out last
      rw [show b + 1 = 8 * (b / 8 + 1) by omega]
      exact .between idle (fed.shift c) fun _ => ⟨by rw [out, ← BitVec.shiftLeft_add, BitVec.shiftLeft_eq_zero (by decide)], ticks⟩
    · rw [show 7 - b % 8 = 7 - (b % 8 + 1) + 1 by omega] at holds
      have bits := holds.shift_last last
      rw [← BitVec.shiftLeft_add] at bits
      rw [show b + 1 = 8 * (b / 8) + (b % 8 + 1) by omega]
      exact .within (by omega) bits (goes_on (holds.shift_running (.inl (Nat.succ_ne_zero _))))
  · rw [show SentB ys b = SentB ys (8 * (b / 8) + b % 8) by rw [Nat.div_add_mod]]
    exact .within (by omega) (holds.shift_within last) (goes_on (holds.shift_running (.inr last)))

/-- A Backend B block in the course of the stream `ys`, as `SentB` says. -/
structure Streaming (ys : List Byte) (b j : Nat) (s : State) : Prop where
  inv : BlockInv s
  backend : s.cfg.backend = .B
  busy : s.busy = true
  built : s.buildCnt = 0
  length : s.b.blen.toNat = ys.length
  stream : ∀ p, streamAt s p = ys.getD p 0#8
  sent : SentB ys b j s.b

section
variable {ys : List Byte} {b j : Nat}

theorem Streaming.of_beginTick (h : Streaming ys b j s) : Streaming ys b j (beginTick s) :=
  ⟨h.inv.beginTick, h.backend, h.busy, h.built, h.length, h.stream, h.sent⟩

theorem Streaming.inside (h : Streaming ys b j s) : s.b.bpos.toNat ≤ ys.length := by
  rw [← h.length]
  exact ((h.inv.onB h.backend).run h.busy h.built).inside

/-- With a bit left to send the wait for the end of the stream goes on (R235). -/
theorem Streaming.unfinished (h : Streaming ys b j s) (more : b < 8 * ys.length) :
    ¬ (s.b.bpos = s.b.blen ∧ spiTc s.b = true) := by
  rintro ⟨sent, tc⟩
  have length := h.length
  cases h.sent with
  | within _ holds => rw [holds.not_spiTc] at tc; cases tc
  | @between k _ idle fed =>
    have taken := fed.taken
    simp only [spiTc, Bool.and_eq_true, Bool.not_eq_true'] at tc
    rw [tc.2, sent, length, Bool.toNat_false] at taken
    omega

theorem Streaming.sequencer_eq (h : Streaming ys b j s) (more : b < 8 * ys.length) : sequencer (beginTick s) = beginTick s := by
  have waits : sequencerB (beginTick s) = beginTick s := if_neg (h.unfinished more)
  simp [sequencer, h.busy, h.built, h.backend, waits]

/-- When the byte loop has had its turn the bit to send is in the serializer, or is loaded at once. -/
theorem Streaming.looped (h : Streaming ys b j s) (more : b < 8 * ys.length) :
    HoldsBits (7 - b % 8) (ys.getD (b / 8) 0#8 <<< (b % 8)) j (loopedB s) ∧ Fed ys (b / 8 + 1) (loopedB s).load := by
  have length := h.length
  have inside := h.inside
  have sends := h.inv.sending_iff h.backend h.busy h.built
  cases h.sent with
  | @between k _ idle fed =>
    have at_k : 8 * k / 8 = k ∧ 8 * k % 8 = 0 := by omega
    rw [at_k.1, at_k.2, BitVec.shiftLeft_zero]
    have taken := fed.taken
    cases full : s.b.drFull with
    | true =>
      rw [loopedB, if_neg (by simp [sends, full])]
      exact fed.load idle full
    | false =>
      rw [full, Bool.toNat_false, Nat.add_zero] at taken
      have room : s.b.bpos.toNat < s.b.blen.toNat := by omega
      rw [loopedB, if_pos (sends.mpr ⟨full, by bv_omega⟩), h.stream]
      exact (fed.send full room).load idle rfl
  | @within k m _ _ small holds fed =>
    have at_k : (8 * k + m) / 8 = k ∧ (8 * k + m) % 8 = m := by omega
    rw [at_k.1, at_k.2, loopedB]
    split
    · next on =>
      obtain ⟨empty, left⟩ := sends.mp on
      have running := holds.running
      rw [RegsB.load_of_empty empty] at fed running
      have waits (x : Byte) : (s.b.send x).load = s.b.send x := RegsB.load_of_running running
      rw [h.stream, waits]
      exact ⟨holds.send empty _, fed.send empty (by bv_omega)⟩
    · exact ⟨holds, fed⟩

end

/-! ### The run of a stream (R236, R238) -/

theorem sbitTicks_pos {c : Config} (legal : c.legal = true) : 0 < c.sbitTicks := by
  rw [Config.legal_iff] at legal
  omega

/-- One more tick: in the same bit, or at the next. -/
theorem succ_div_mod (i : Nat) {ticks : Nat} (positive : 0 < ticks) :
    (i + 1) / ticks = (if i % ticks + 1 = ticks then i / ticks + 1 else i / ticks) ∧
    (i + 1) % ticks = if i % ticks + 1 = ticks then 0 else i % ticks + 1 := by
  have whole := Nat.mod_add_div i ticks
  have below := Nat.mod_lt i positive
  rw [Nat.div_mod_unique positive]
  split_ifs with last
  · rw [Nat.mul_succ]
    omega
  · omega

section
variable {ys : List Byte} {i : Nat}

/-- The level of the line in tick `i` of a stream: every bit for `ticks` ticks, bit 7 of a byte first (R116). -/
def streamLevel (ticks : Nat) (ys : List Byte) (i : Nat) : Bool :=
  (ys.getD (i / ticks / 8) 0#8).getLsbD (7 - i / ticks % 8)

/-- The agents of one tick. -/
theorem Streaming.acts (h : Streaming ys (i / s.cfg.sbitTicks) (i % s.cfg.sbitTicks) s) (more : i < 8 * ys.length * s.cfg.sbitTicks)
    (stall : Bool) : ∃ t, agents stall s = .next t ∧ t.dout = streamLevel s.cfg.sbitTicks ys i ∧
      Streaming ys ((i + 1) / s.cfg.sbitTicks) ((i + 1) % s.cfg.sbitTicks) t := by
  obtain ⟨holds, fed⟩ := h.looped (Nat.div_lt_of_lt_mul (by rwa [Nat.mul_comm]))
  have acts : agents stall s =
      .next { s with dout := doutB (loopedB s).load, b := (loopedB s).load.shift s.cfg } := by
    rw [agents_B h.backend, h.inv.byteLoop_eq h.backend h.busy h.built, Result.andThen_next]
    exact serialize_eq h.backend
  have length : ((loopedB s).load.shift s.cfg).blen = s.b.blen := by
    rw [RegsB.shift_blen, RegsB.load_blen, loopedB]
    split <;> rfl
  refine ⟨_, acts, ?_, inv_of_agents_next h.inv acts, h.backend, h.busy, h.built, ?_, fun p => ?_, ?_⟩
  · have inside : ¬ 7 < i / s.cfg.sbitTicks % 8 := by omega
    rw [holds.doutB, BitVec.getLsbD_shiftLeft]
    simp [streamLevel, inside]
  · rw [length]
    exact h.length
  · rw [← h.stream p, streamAt, length]
    rfl
  · obtain ⟨bits, ticks⟩ := succ_div_mod i (sbitTicks_pos h.inv.legal)
    rw [bits, ticks]
    exact SentB.shift holds fed

/-- The first tick of a stream: the agents act where it begins. -/
theorem Streaming.first (h : Streaming ys 0 0 s) (nonempty : 0 < ys.length) (stall : Bool) : ∃ t,
    agents stall s = .next t ∧ t.dout = streamLevel s.cfg.sbitTicks ys 0 ∧
      Streaming ys (1 / s.cfg.sbitTicks) (1 % s.cfg.sbitTicks) t := by
  have positive := sbitTicks_pos h.inv.legal
  refine Streaming.acts (by rwa [Nat.zero_div, Nat.zero_mod]) ?_ stall
  exact Nat.mul_pos (by omega) positive

/-- The ticks of a stream after its first. -/
theorem Streaming.runs {n : Nat} (h : Streaming ys (1 / s.cfg.sbitTicks) (1 % s.cfg.sbitTicks) s)
    (whole : 1 + n = 8 * ys.length * s.cfg.sbitTicks) (inputs : inputsMeet (fun p => p.rst = false) n s) :
    ∃ t, BusyRun n s ((List.range n).map fun k => streamLevel s.cfg.sbitTicks ys (1 + k)) t ∧ Streaming ys (8 * ys.length) 0 t := by
  have positive := sbitTicks_pos h.inv.legal
  have ticks := BusyRun.ticks (n := n) (level := fun k => streamLevel s.cfg.sbitTicks ys (1 + k)) (I := fun p => p.rst = false)
    (Q := fun k t => t.cfg = s.cfg ∧ Streaming ys ((1 + k) / s.cfg.sbitTicks) ((1 + k) % s.cfg.sbitTicks) t) ?_ ⟨rfl, h⟩ inputs
  · obtain ⟨t, run, -, ended⟩ := ticks
    rw [whole, Nat.mul_div_cancel _ positive, Nat.mul_mod_left] at ended
    exact ⟨t, run, ended⟩
  · rintro k t hk ⟨cfg, at_k⟩ noReset
    rw [← cfg] at at_k whole ⊢
    have more : 1 + k < 8 * ys.length * t.cfg.sbitTicks := by omega
    have waits := at_k.sequencer_eq (Nat.div_lt_of_lt_mul (by rwa [Nat.mul_comm]))
    have running : readyNow t = false := by rw [readyNow, waits, cmdReady, beginTick_busy, at_k.busy]; rfl
    obtain ⟨u, acts, level, next⟩ := Streaming.acts (s := beginTick t) at_k.of_beginTick more (nextInput t).stall
    have e : step t = .next u := by rw [step_of_not_ready noReset running, waits, acts]
    have run := BusyRun.tick noReset at_k.busy running e
    rw [level] at run
    exact ⟨u, run, run.cfg, next⟩

/-- A stream sent to its end: the serializer empty and shifted out, the last byte in the data register (R240). -/
theorem Streaming.ended (h : Streaming ys (8 * ys.length) 0 s) (nonempty : 0 < ys.length) :
    RestB s.b ∧ s.b.sr = 0#8 ∧ s.b.sbitCnt = 0 ∧ s.b.dr = ys.getD (ys.length - 1) 0#8 := by
  have inside := h.inside
  have length := h.length
  have sent := h.sent
  generalize bits : 8 * ys.length = b at sent
  cases sent with
  | @between k _ idle fed out =>
    obtain rfl : k = ys.length := by omega
    have taken := fed.taken
    have last := fed.last
    cases full : s.b.drFull with
    | true => simp [full] at taken; omega
    | false =>
      rw [full, Bool.toNat_false, Nat.add_zero] at taken
      rw [taken] at last
      obtain ⟨out, ticks⟩ := out nonempty
      exact ⟨⟨full, idle, BitVec.eq_of_toNat_eq (taken.trans length.symm)⟩, out, ticks, last nonempty⟩
  | @within k m _ _ small holds fed =>
    have taken := fed.taken
    rw [RegsB.load_bpos] at taken
    omega

/-- A stream sent to its end: `busy` falls in the next tick, and without a command nothing else moves (R235, R240). -/
theorem Streaming.falls (h : Streaming ys (8 * ys.length) 0 s) (nonempty : 0 < ys.length) : readyNow s = true ∧
    ((nextInput s).rst = false → (nextInput s).cmd = none → ∃ u, step s = .next u ∧ u.busy = false ∧ u.b = s.b) := by
  obtain ⟨rest, -⟩ := h.ended nonempty
  have falls : sequencer (beginTick s) = { beginTick s with busy := false } := by
    simp [sequencer, h.busy, h.built, h.backend, sequencerB, spiTc, rest.sent, rest.idle, rest.empty]
  refine ⟨by rw [readyNow, falls]; rfl, fun noReset noCmd => ?_⟩
  have e : step s = agents (nextInput s).stall (sequencer (beginTick s)) := tick_no_cmd noReset noCmd
  rw [falls, agentsB_rest (s := { beginTick s with busy := false }) h.backend rest (.inl rfl)] at e
  exact ⟨_, e, rfl, rfl⟩

/-- A stream of a legal length begins with its two registers (R235). -/
theorem Streaming.of_begin {r : RegsB} (inv : BlockInv s) (backend : s.cfg.backend = .B) (busy : s.busy = true)
    (built : s.buildCnt = 0) (rest : RestB r) (begun : s.b = r.begin ys.length) (bounded : ys.length < 2 ^ 16)
    (stream : ∀ p, streamAt s p = ys.getD p 0#8) : Streaming ys 0 0 s :=
  ⟨inv, backend, busy, built, by rw [begun]; simpa using bounded, stream, by
    rw [begun]
    exact .between (k := 0) rest.idle ⟨by simp [rest.empty], fun sent => by simp at sent⟩ fun positive => by omega⟩

/-- The line of a byte: the windows of its two nibbles, the high one first (R111, R116). -/
def byteLine (c : Config) (y : Byte) : List Bool := windowLine c (y.extractLsb' 4 4) ++ windowLine c (y.extractLsb' 0 4)

/-- A level held for `ticks` ticks, step after step. -/
theorem map_range_div {α : Type} {ticks : Nat} (positive : 0 < ticks) (f : Nat → α) (n : Nat) :
    (List.range (n * ticks)).map (fun i => f (i / ticks)) = (List.range n).flatMap fun b => List.replicate ticks (f b) := by
  induction n with
  | zero => simp
  | succ n ih =>
    have held : ∀ i ∈ List.range ticks, f ((n * ticks + i) / ticks) = f n := fun i hi => by
      rw [Nat.mul_comm, Nat.mul_add_div positive, Nat.div_eq_of_lt (List.mem_range.mp hi), Nat.add_zero]
    rw [Nat.succ_mul, List.range_add, List.map_append, ih, List.range_succ, List.flatMap_append, List.map_map]
    simp [Function.comp_def, List.map_congr_left held]

/-- Bit by bit, byte after byte. -/
theorem flatMap_range_bits (ticks : Nat) (ys : List Byte) :
    ((List.range (8 * ys.length)).flatMap fun b => List.replicate ticks ((ys.getD (b / 8) 0#8).getLsbD (7 - b % 8))) =
      ys.flatMap fun y => (List.range 8).flatMap fun b => List.replicate ticks (y.getLsbD (7 - b)) := by
  induction ys with
  | nil => rfl
  | cons y ys ih =>
    have bits : ∀ b ∈ List.range 8, List.replicate ticks (((y :: ys).getD (b / 8) 0#8).getLsbD (7 - b % 8)) =
        List.replicate ticks (y.getLsbD (7 - b)) := fun b hb => by
      rw [Nat.div_eq_of_lt (List.mem_range.mp hb), Nat.mod_eq_of_lt (List.mem_range.mp hb), List.getD_cons_zero]
    have later : ∀ b, (8 + b) / 8 = b / 8 + 1 ∧ (8 + b) % 8 = b % 8 := fun b => by omega
    rw [List.length_cons, Nat.mul_succ, Nat.add_comm, List.range_add, List.flatMap_append, List.flatMap_cons,
      List.flatMap_congr bits, List.flatMap_map, ← ih]
    simp only [later, List.getD_cons_succ]

theorem byteLine_eq (c : Config) (y : Byte) :
    (List.range 8).flatMap (fun b => List.replicate c.sbitTicks (y.getLsbD (7 - b))) = byteLine c y := by
  simp [byteLine, windowLine, List.range_succ]

/-- The line of a whole stream (R116, R238). -/
theorem streamLevels_eq {c : Config} (legal : c.legal = true) (ys : List Byte) :
    (List.range (8 * ys.length * c.sbitTicks)).map (streamLevel c.sbitTicks ys) = ys.flatMap (byteLine c) := by
  rw [← funext (byteLine_eq c), ← flatMap_range_bits, ← map_range_div (sbitTicks_pos legal)]
  rfl

end

/-! ### The line of a `show` (R238) -/

/-- The bytes of a `show`'s stream: the frame between two reset blocks (R231). -/
def showBytes (s : State) : List Byte :=
  List.replicate s.cfg.resetBytes 0#8 ++ frameB s.cfg s.strip.count.toNat s.strip.brightness s.strip.pix ++
    List.replicate s.cfg.resetBytes 0#8

@[simp] theorem showBytes_length (s : State) : (showBytes s).length = s.cfg.showLen s.strip.count.toNat := by
  simp [showBytes, Config.showLen]
  omega

theorem showBytes_pos (s : State) : 0 < (showBytes s).length := by simp [Config.showLen, Config.lenB]

theorem getD_replicate_self {α : Type} (d : α) (n p : Nat) : (List.replicate n d).getD p d = d := by
  rw [List.getD_eq_getElem?_getD, List.getElem?_getD_replicate_default_eq]

theorem byteLine_zero (c : Config) : byteLine c 0#8 = low (8 * c.sbitTicks) := by
  simp [byteLine, windowLine, low]
  omega

theorem byteLine_pairB (c : Config) (earlier later : Bool) :
    byteLine c (c.pairB earlier later) = windowLine c (c.codeB earlier) ++ windowLine c (c.codeB later) := by
  rw [byteLine, pairB_high, pairB_low]

/-- The data bytes of one LED go on the line as the windows of its 24 bits. -/
theorem pixelBytes_line (c : Config) (b : Byte) (p : Pixel) :
    (pixelBytes c b p).flatMap (byteLine c) = (pixelBits b p).flatMap fun bit => windowLine c (c.codeB bit) := by
  simp only [pixelBytes, pixelBits, List.flatMap_map, byteLine_pairB]
  simp [List.range_succ]

/-- The line of a whole `show` after its build: the frame's windows between guard bytes and reset blocks (R238). -/
def showLineB (s : State) : List Bool :=
  low (s.cfg.resetBytes * 8 * s.cfg.sbitTicks) ++ low (8 * s.cfg.sbitTicks) ++
    (shownBits s).flatMap (fun bit => windowLine s.cfg (s.cfg.codeB bit)) ++
    low (8 * s.cfg.sbitTicks) ++ low (s.cfg.resetBytes * 8 * s.cfg.sbitTicks)

theorem showBytes_line (s : State) : (showBytes s).flatMap (byteLine s.cfg) = showLineB s := by
  have block : (List.replicate s.cfg.resetBytes 0#8).flatMap (byteLine s.cfg) = low (s.cfg.resetBytes * 8 * s.cfg.sbitTicks) := by
    rw [List.flatMap_replicate, byteLine_zero, low, low, List.flatten_replicate_replicate, Nat.mul_assoc]
  have data : ((List.range s.strip.count.toNat).flatMap fun i =>
        pixelBytes s.cfg s.strip.brightness (Store.read Pixel.zero s.strip.pix i)).flatMap (byteLine s.cfg) =
      (shownBits s).flatMap fun bit => windowLine s.cfg (s.cfg.codeB bit) := by
    rw [shownBits, frameBits, List.flatMap_assoc, List.flatMap_assoc]
    simp only [pixelBytes_line]
  rw [showBytes, showLineB, frameB]
  simp only [List.flatMap_append, List.flatMap_cons, List.flatMap_nil, block, data, byteLine_zero, List.append_assoc, List.append_nil]

/-- A `show`'s last byte is the trailing reset block's. -/
theorem showBytes_last (legal : s.cfg.legal = true) : (showBytes s).getD ((showBytes s).length - 1) 0#8 = 0#8 := by
  have positive : 1 ≤ s.cfg.resetBytes := by rw [Config.legal_iff] at legal; omega
  rw [showBytes, List.getD_append_right _ _ _ _ (by simp; omega), getD_replicate_self]

/-- The bits of a `show` are read off its line (R118). -/
theorem decodeLine_showLineB (legal : s.cfg.legal = true) (backend : s.cfg.backend = .B) (sides : discriminable s.cfg = true) :
    decodeLine s.cfg s.strip.count.toNat (low s.cfg.buildTicks ++ showLineB s) = some (shownBits s) := by
  have lead : (low s.cfg.buildTicks ++ (low (s.cfg.resetBytes * 8 * s.cfg.sbitTicks) ++ low (8 * s.cfg.sbitTicks))).length =
      dataStart s.cfg := by
    simp only [low, List.length_append, List.length_replicate, dataStart, backend, Nat.add_mul, Nat.mul_assoc, Nat.one_mul]
  have window : windowTicks s.cfg = 4 * s.cfg.sbitTicks := by rw [windowTicks, backend]
  rw [decodeLine, showLineB, List.append_assoc (_ ++ _), List.append_assoc (_ ++ _), ← List.append_assoc (low s.cfg.buildTicks),
    List.drop_left' lead, window, ← shownBits_length]
  exact ((discriminatorReadsBothShapes s.cfg true legal).2.2.2 sides (shownBits s) _).2 backend

/-! ### From the acceptance of a `show` to its stream (R160, R172, R235) -/

/-- The tick that accepts a valid `show`: the agents find the frame built. -/
theorem step_of_show {w : CmdWord} (inv : BlockInv s) (ready : readyNow s = true) (presented : (nextInput s).cmd = some w)
    (word : decodeCmd w = .showFrame true) (count : 1 ≤ s.strip.count.toNat) (noReset : (nextInput s).rst = false) :
    BlockInv (shown s) ∧ step s = agents (nextInput s).stall (shown s) := by
  have idle := (readyNow_iff_not_busy s).mp ready
  have inv := inv.beginTick.sequencer
  have count : 1 ≤ (sequencer (beginTick s)).strip.count.toNat := by simpa using count
  refine ⟨inv.command idle (.showing (by rwa [liveCount_eq inv.strip]) idle), ?_⟩
  rw [step, tick_cmd noReset presented idle, word, exec_showFrame_eq inv idle count]
  rfl

/-- That tick as a run. -/
theorem ShowRun.accepted (e : step s = .next t) (acts : agents (nextInput s).stall (shown s) = .next t) :
    ShowRun 1 s [t.dout] t := by
  have frame := agents_next acts
  refine ⟨(after_one s).trans e, lineTrace_succ e 0, fun j positive hj => by omega, ?_, ?_, ?_⟩ <;> rw [frame] <;>
    simp [shown]

/-- A `show` accepted on a Backend B block and its transport `i` ticks away, the frame `fbb` built. -/
structure Building (fbb : Store Byte) (i : Nat) (s : State) : Prop where
  inv : BlockInv s
  backend : s.cfg.backend = .B
  left : s.buildCnt = i
  built : s.fbb = fbb

variable {fbb : Store Byte}

/-- The agents are at rest during the build. -/
theorem Building.agents {i : Nat} (h : Building fbb (i + 1) s) (stall : Bool) :
    ∃ t, agents stall s = .next t ∧ t.dout = false ∧ Building fbb (i + 1) t := by
  have waiting : s.buildCnt ≠ 0 := by rw [h.left]; exact Nat.succ_ne_zero i
  have acts := agentsB_rest h.backend ((h.inv.onB h.backend).rest (.inr waiting)) (.inr waiting) stall
  exact ⟨_, acts, rfl, inv_of_agents_next h.inv acts, h.backend, h.left, h.built⟩

/-- The sequencer's wait for the build (R172). -/
theorem Building.await {i : Nat} (h : Building fbb (i + 1) s) : sequencer (beginTick s) = awaitBuild (beginTick s) ∧
    readyNow s = false := by
  have waiting : s.buildCnt ≠ 0 := by rw [h.left]; exact Nat.succ_ne_zero i
  have busy := h.inv.waiting waiting
  have awaits : sequencer (beginTick s) = awaitBuild (beginTick s) := by simp [sequencer, busy, waiting]
  exact ⟨awaits, by rw [readyNow, awaits, cmdReady, awaitBuild_busy, beginTick_busy, busy]; rfl⟩

/-- The ticks of the build but the last (R172). -/
theorem Building.waits {i : Nat} (h : Building fbb (i + 1) s) (inputs : inputsMeet (fun p => p.rst = false) i s) :
    ∃ t, BusyRun i s (low i) t ∧ Building fbb 1 t := by
  have ticks := BusyRun.ticks (n := i) (level := fun _ => false) (I := fun p => p.rst = false)
    (Q := fun k => Building fbb (i - k + 1)) ?_ h inputs
  · obtain ⟨t, run, last⟩ := ticks
    rw [List.map_const', List.length_range] at run
    exact ⟨t, run, by rwa [Nat.sub_self] at last⟩
  · intro k t hk at_k noReset
    obtain ⟨awaits, running⟩ := at_k.await
    have counts : awaitBuild (beginTick t) = { beginTick t with buildCnt := t.buildCnt - 1 } :=
      if_neg (by rw [beginTick_buildCnt, at_k.left]; omega)
    have next : Building fbb (i - (k + 1) + 1) (sequencer (beginTick t)) :=
      ⟨at_k.inv.beginTick.sequencer, by simpa using at_k.backend, by rw [awaits, counts]; simp [at_k.left]; omega,
        by simpa using at_k.built⟩
    obtain ⟨u, acts, level, next⟩ := next.agents (nextInput t).stall
    have run := BusyRun.tick noReset (at_k.inv.waiting (by rw [at_k.left]; omega)) running
      ((step_of_not_ready noReset running).trans acts)
    rw [level] at run
    exact ⟨u, run, next⟩

/-- The stream of a block whose buffer holds the frame a `show` built (R231). -/
theorem streamAt_shown (inv : BlockInv s) (backend : s.cfg.backend = .B) (cfg : t.cfg = s.cfg) (frame : t.fbb = (shown s).fbb)
    (length : t.b.blen.toNat = (showBytes s).length) (p : Nat) : streamAt t p = (showBytes s).getD p 0#8 := by
  have read (k : Nat) (inside : k < Config.lenB s.strip.count.toNat) :
      readFbb t k = (frameB s.cfg s.strip.count.toNat s.strip.brightness s.strip.pix).getD k 0#8 := by
    rw [readFbb, frame, shown, ← readFbb, readFbb_beginShow (by simpa using backend) inv.beginTick.sequencer.memory]
    simp [inside]
  rw [showBytes_length, Config.showLen] at length
  rw [streamAt, cfg, length, showBytes, List.append_assoc]
  by_cases lead : p < s.cfg.resetBytes
  · rw [if_neg (by omega), List.getD_append _ _ _ _ (by simpa using lead), getD_replicate_self]
  rw [List.getD_append_right _ _ _ _ (by simpa using lead), List.length_replicate]
  by_cases data : p - s.cfg.resetBytes < Config.lenB s.strip.count.toNat
  · rw [if_pos (by omega), read _ data, List.getD_append _ _ _ _ (by simpa using data)]
  · rw [if_neg (by omega), List.getD_append_right _ _ _ _ (by simpa using data), getD_replicate_self]

/-- A `show`'s stream begins where `startTransport` or the accepted command has left it to the agents. -/
theorem Streaming.of_show {r : RegsB} (inv : BlockInv s) (backend : s.cfg.backend = .B) (inv_t : BlockInv t) (cfg : t.cfg = s.cfg)
    (busy : t.busy = true) (built : t.buildCnt = 0) (frame : t.fbb = (shown s).fbb) (rest : RestB r)
    (begun : t.b = r.begin (s.cfg.showLen s.strip.count.toNat)) : Streaming (showBytes s) 0 0 t := by
  have bounded := showLen_lt backend inv.legal inv.strip
  rw [← showBytes_length] at begun bounded
  exact .of_begin inv_t (by rw [cfg]; exact backend) busy built rest begun bounded
    (streamAt_shown inv backend cfg frame (by rw [begun]; simpa using bounded))

theorem beginShow_b (s : State) : (beginShow s).b = if s.cfg.backend = .B ∧ s.cfg.buildTicks = 0 then
    s.b.begin (s.cfg.showLen s.strip.count.toNat) else s.b := by
  unfold beginShow
  by_cases immediate : s.cfg.buildTicks = 0 <;> simp [startTransport_eq, immediate]

/-- The last tick of the build, in which the transport starts (R172, R235). -/
theorem Building.starts (inv : BlockInv s) (backend : s.cfg.backend = .B) (h : Building (shown s).fbb 1 t) (cfg : t.cfg = s.cfg)
    (strip : t.strip = s.strip) (noReset : (nextInput t).rst = false) :
    ∃ u, BusyRun 1 t [streamLevel s.cfg.sbitTicks (showBytes s) 0] u ∧
      Streaming (showBytes s) (1 / s.cfg.sbitTicks) (1 % s.cfg.sbitTicks) u := by
  obtain ⟨awaits, running⟩ := h.await
  have waiting : t.buildCnt ≠ 0 := by rw [h.left]; exact Nat.one_ne_zero
  have busy := h.inv.waiting waiting
  have starts : awaitBuild (beginTick t) = startTransport { beginTick t with buildCnt := 0 } := if_pos h.left
  rw [starts] at awaits
  have inv_u := h.inv.beginTick.sequencer
  rw [awaits] at inv_u
  have begun : Streaming (showBytes s) 0 0 (startTransport { beginTick t with buildCnt := 0 }) :=
    .of_show inv backend inv_u (by simpa using cfg) (by simpa using busy) (by simp) (by simpa using h.built)
      ((h.inv.onB h.backend).rest (.inr waiting))
      (by simp [startTransport_eq, backend, h.inv.sampled (.inl waiting), cfg, strip])
  obtain ⟨u, acts, level, first⟩ := begun.first (showBytes_pos s) (nextInput t).stall
  have run := BusyRun.tick noReset busy running ((step_of_not_ready noReset running).trans (awaits ▸ acts))
  simp only [startTransport_cfg, beginTick_cfg, cfg] at level first
  rw [level] at run
  exact ⟨u, run, first⟩

section
variable {w : CmdWord} (inv : BlockInv s) (backend : s.cfg.backend = .B) (ready : readyNow s = true)
  (presented : (nextInput s).cmd = some w) (word : decodeCmd w = .showFrame true) (count : 1 ≤ s.strip.count.toNat)
include inv backend ready presented word count

/-- Acceptance and build, and the first tick of the stream. -/
theorem show_enters (inputs : inputsMeet (fun p => p.rst = false) (s.cfg.buildTicks + 1) s) :
    ∃ t, ShowRun (s.cfg.buildTicks + 1) s (low s.cfg.buildTicks ++ [streamLevel s.cfg.sbitTicks (showBytes s) 0]) t ∧
      Streaming (showBytes s) (1 / s.cfg.sbitTicks) (1 % s.cfg.sbitTicks) t := by
  obtain ⟨inv_shown, accepts⟩ := step_of_show inv ready presented word count (inputs.next (Nat.succ_pos _))
  have idle := (readyNow_iff_not_busy s).mp ready
  have idle_inv := inv.beginTick.sequencer
  have built := beginShow_buildCnt (sequencer (beginTick s))
  have regs := beginShow_b (sequencer (beginTick s))
  cases ticks : s.cfg.buildTicks with
  | zero =>
    simp only [sequencer_cfg, beginTick_cfg, sequencer_strip, beginTick_strip, ticks, if_true, backend, and_true] at built regs
    have begun : Streaming (showBytes s) 0 0 (shown s) := .of_show inv backend inv_shown (shown_cfg s) (beginShow_busy _)
      (built.trans (idle_inv.buildCnt_eq_zero idle)) rfl ((idle_inv.onB (by simpa using backend)).rest (.inl idle)) regs
    obtain ⟨t, acts, level, first⟩ := begun.first (showBytes_pos s) (nextInput s).stall
    rw [shown_cfg] at level first
    have run := ShowRun.accepted (accepts.trans acts) acts
    rw [level] at run
    exact ⟨t, run, first⟩
  | succ i =>
    simp only [sequencer_cfg, beginTick_cfg, ticks, Nat.succ_ne_zero, if_false] at built
    have building : Building (shown s).fbb (i + 1) (shown s) := ⟨inv_shown, by simpa using backend, built, rfl⟩
    obtain ⟨x, acts, level, building⟩ := building.agents (nextInput s).stall
    have accepted := ShowRun.accepted (accepts.trans acts) acts
    rw [level] at accepted
    rw [ticks, Nat.add_comm] at inputs
    have inputs := inputs.of_after accepted.reaches
    obtain ⟨y, waits, last⟩ := building.waits (inputs.of_le (Nat.le_succ i))
    obtain ⟨t, starts, first⟩ := Building.starts inv backend last (waits.cfg.trans accepted.cfg) (waits.strip.trans accepted.strip)
      ((inputs.of_after waits.reaches).next Nat.one_pos)
    have run := (accepted.trans waits).trans starts
    rw [Nat.add_comm 1 i] at run
    exact ⟨t, run, first⟩

/-- To the tick in which `busy` falls. -/
theorem show_finishes (inputs : inputsMeet (fun p => p.rst = false) (showTicksB s.cfg s.strip.count.toNat) s) :
    ∃ t, ShowRun (showTicksB s.cfg s.strip.count.toNat) s (low s.cfg.buildTicks ++ showLineB s) t ∧
      Streaming (showBytes s) (8 * (showBytes s).length) 0 t := by
  have ticks : 0 < 8 * (showBytes s).length * s.cfg.sbitTicks :=
    Nat.mul_pos (by have := showBytes_pos s; omega) (sbitTicks_pos inv.legal)
  obtain ⟨n, whole⟩ := Nat.exists_eq_add_of_le' ticks
  have total : showTicksB s.cfg s.strip.count.toNat = s.cfg.buildTicks + 1 + n := by
    rw [showTicksB, ← showBytes_length, ← Nat.mul_assoc, Nat.mul_comm _ 8, whole]
    omega
  rw [total] at inputs ⊢
  obtain ⟨x, enters, first⟩ := show_enters inv backend ready presented word count (inputs.of_le (Nat.le_add_right _ n))
  rw [← enters.cfg] at first whole
  obtain ⟨t, run, ended⟩ := first.runs (by omega) (inputs.of_after enters.reaches)
  refine ⟨t, ?_, ended⟩
  have line := streamLevels_eq inv.legal (showBytes s)
  rw [enters.cfg] at whole
  rw [showBytes_line, whole, Nat.add_comm, List.range_add, List.map_append, List.map_map] at line
  rw [← line, ← List.append_assoc]
  have run := enters.trans run
  rw [enters.cfg] at run
  exact run

end

/-! ### A whole `show` on the line (R238, R240) -/

/-- Settles O42: acceptance, build and the stream, tick after tick, one run. -/
theorem showOnTheLineB : Obligations.ShowOnTheLineB := by
  intro s w inv backend ready presented word count noReset c
  obtain ⟨t, run, sent⟩ := show_finishes inv backend ready presented word count noReset
  obtain ⟨rest, out, ticks, last⟩ := sent.ended (showBytes_pos s)
  obtain ⟨ready_t, falls⟩ := sent.falls (showBytes_pos s)
  refine ⟨fun m noReset noCmd => ?_, fun sides => ?_, run.busy, t, run.reaches, ready_t, run.strip, ?_, out, rest.empty, rest.idle,
    ticks, rest.sent, ?_, falls⟩
  · have quiet : inputsMeet (fun p => p.rst = false ∧ p.cmd = none) m t := fun j hj =>
      ⟨noRst_of_after run.reaches noReset j hj, by rw [inputAt_of_after run.reaches]; exact noCmd j hj⟩
    rw [lineTrace_add run.reaches, run.line, lineTrace_of_idle sent.inv ready_t quiet, showLineB]
    simp only [← List.append_assoc]
    rfl
  · rw [run.line]
    exact decodeLine_showLineB inv.legal backend sides
  · rw [last, showBytes_last inv.legal]
  · rw [sent.length, showBytes_length, Config.showLen, Config.lenB, Nat.add_assoc]

end Sys2Proof.Machine
end

section
/-! PROOFS. The latch (44_reset_latch.md): `reset` in the tick it is accepted, and its run on the line of either backend. -/

namespace Sys2Proof.Machine

variable {s t u : State} {d : Nat} {line : List Bool}

/-! ### `reset` in the tick it is accepted (R260) -/

theorem exec_resetLine_of_noop {h : Bool} (nothing : h = false ∨ s.strip.inited = false) : exec (.resetLine h) s = .next s :=
  if_neg fun effective => by rcases nothing with e | e <;> simp [e] at effective

theorem exec_resetLine_eq (inited : s.strip.inited = true) (idle : s.busy = false) :
    exec (.resetLine true) s = .next (beginReset s) := by
  simp [exec, execReset, inited, idle]

theorem beginReset_b (s : State) : (beginReset s).b = if s.cfg.backend = .B then s.b.begin s.cfg.resetBytes else s.b := by
  cases backend : s.cfg.backend <;> simp [beginReset, backend]

/-- An effective `reset` raises `busy` and writes the transport registers, and nothing else. -/
theorem beginReset_eq (s : State) : beginReset s = { s with busy := true, a := (beginReset s).a, b := (beginReset s).b } := by
  unfold beginReset
  split <;> rfl

/-- Settles O43: `reset` passes its test with a handle and an initialised strip alone, and then is `beginReset`. -/
theorem resetAccepted : Obligations.ResetAccepted := by
  refine fun s h => ⟨exec_resetLine_of_noop, ?_⟩
  rintro rfl inited idle
  rw [exec_resetLine_eq inited idle, beginReset_eq, beginReset_a, beginReset_b]
  rfl

/-! ### The frame buffers over a run (R29 to R31) -/

/-- A run that accepts no `show` leaves both frame buffers as they are. -/
theorem buffers_of_after {k : Nat} (e : after k s = .next t) (noReset : noRst k s)
    (others : ∀ j u, j < k → after j s = .next u → ∀ i, acceptedNow u = some i → isShow i = false) :
    t.fba = s.fba ∧ t.fbb = s.fbb := by
  induction k generalizing s with
  | zero => cases e; exact ⟨rfl, rfl⟩
  | succ k ih =>
    rw [after_succ, Result.andThen_eq_next] at e
    obtain ⟨v, first, rest⟩ := e
    obtain ⟨fba, fbb⟩ := (step_writtenBy first (nextInput_rst_of_noRst noReset)).buffers (others 0 s (Nat.succ_pos k) rfl)
    obtain ⟨fba', fbb'⟩ := ih rest (noRst_of_step first noReset) fun j u hj reached =>
      others (j + 1) u (by omega) (by rw [after_succ, first, Result.andThen_next, reached])
    exact ⟨fba'.trans fba, fbb'.trans fbb⟩

/-- A running operation writes neither: it takes no command. -/
theorem BusyRun.fbb (run : BusyRun d s line t) (noReset : noRst d s) : t.fbb = s.fbb := by
  refine (buffers_of_after run.reaches noReset fun j u hj reached i accepted => ?_).2
  obtain ⟨v, reached', -, running⟩ := run.busy j hj
  obtain ⟨-, ready, -⟩ := acceptedNow_eq_some_iff.mp accepted
  rw [reached] at reached'
  cases reached'
  rw [running] at ready
  cases ready

/-! ### The acceptance of a `reset`, and the run that follows it -/

/-- An effective `reset` is accepted in the coming tick. -/
structure ResetComes (s : State) : Prop where
  inv : BlockInv s
  ready : readyNow s = true
  called : ∃ w, (nextInput s).cmd = some w ∧ decodeCmd w = .resetLine true
  inited : s.strip.inited = true

/-- The state a `reset` accepted in the coming tick makes, before that tick's agents. -/
def latched (s : State) : State := beginReset (sequencer (beginTick s))

@[simp] theorem latched_cfg (s : State) : (latched s).cfg = s.cfg := by simp [latched]

@[simp] theorem latched_busy (s : State) : (latched s).busy = true := by simp [latched]

theorem ResetComes.idle (h : ResetComes s) : (sequencer (beginTick s)).busy = false := (readyNow_iff_not_busy s).mp h.ready

theorem ResetComes.latched_inv (h : ResetComes s) : BlockInv (latched s) :=
  h.inv.beginTick.sequencer.command h.idle (.latching (by simpa using h.inited) h.idle)

/-- No build is left to wait for. -/
theorem ResetComes.latched_built (h : ResetComes s) : (latched s).buildCnt = 0 := by
  simpa [latched] using h.inv.beginTick.sequencer.buildCnt_eq_zero h.idle

/-- The tick that accepts it: the agents find the transport begun. -/
theorem ResetComes.step_eq (h : ResetComes s) (noReset : (nextInput s).rst = false) :
    step s = agents (nextInput s).stall (latched s) := by
  obtain ⟨w, presented, word⟩ := h.called
  rw [step, tick_cmd noReset presented h.idle, word, exec_resetLine_eq (by simpa using h.inited) h.idle]
  rfl

/-- A `reset` accepted in the coming tick, followed for `d` ticks. -/
structure ResetRun (d : Nat) (s : State) (line : List Bool) (t : State) : Prop where
  reaches : after d s = .next t
  line : lineTrace d s = line
  busy : busyFor d s
  cfg : t.cfg = s.cfg
  strip : t.strip = s.strip
  fba : t.fba = s.fba
  fbb : t.fbb = s.fbb

/-- The tick of the acceptance and the running operation after it. -/
theorem ResetComes.run (h : ResetComes s) (noReset : noRst (d + 1) s)
    (acts : agents (nextInput s).stall (latched s) = .next u) (run : BusyRun d u line t) :
    ResetRun (d + 1) s (u.dout :: line) t := by
  have e : step s = .next u := (h.step_eq (nextInput_rst_of_noRst noReset)).trans acts
  have frame := agents_next acts
  refine ⟨?_, by rw [lineTrace_succ e, run.line], fun j positive hj => ?_, ?_, ?_, ?_, ?_⟩
  · rw [after_succ, e]
    exact run.reaches
  · obtain ⟨i, rfl⟩ := Nat.exists_eq_add_of_le' positive
    rw [after_succ, e]
    exact run.busy i (by omega)
  · rw [run.cfg, frame]
    exact latched_cfg s
  · rw [run.strip, frame]
    simp [latched]
  · rw [run.fba, frame]
    simp [latched]
  · rw [run.fbb (noRst_of_step e noReset), frame]
    simp [latched]

/-! ### Backend A: one settle sequence (R191, R261) -/

/-- Where the sequencer leaves the block not busy, it has written at most the two states of a Backend A transport (R190). -/
theorem sequencer_a_of_idle (idle : (sequencer s).busy = false) :
    (sequencer s).a = { s.a with tstate := (sequencer s).a.tstate, tphase := (sequencer s).a.tphase } := by
  by_cases busy : s.busy = true
  · by_cases built : s.buildCnt = 0
    · cases backend : s.cfg.backend with
      | A =>
        simp only [sequencer, busy, built, backend, if_true] at idle ⊢
        unfold sequencerA at idle ⊢
        (repeat' split) <;> simp_all [RegsA.rest]
      | B => simp [sequencer, busy, built, backend]
    · simp [sequencer, busy, built] at idle
  · simp [sequencer, busy]

/-- The registers `k` ticks into a `reset` accepted on the registers `r`: generator and reader as they were. -/
def RegsA.latching (c : Config) (k : Nat) (r : RegsA) : RegsA :=
  { r with tstate := .idle, tphase := .resetSettle, pinMode := .gpio, settleCnt := BitVec.ofNat 16 (c.settleTicks - k) }

theorem ResetComes.latched_a (h : ResetComes s) (backend : s.cfg.backend = .A) : (latched s).a = s.a.latching s.cfg 0 := by
  have rest := (h.inv.beginTick.sequencer.onA (by simpa using backend)).rest (.inl h.idle)
  rw [latched, beginReset_a, if_pos (by simpa using backend), sequencer_a_of_idle h.idle, rest.state]
  simp [RegsA.settle, RegsA.latching]

/-- A Backend A block `k` ticks into a `reset` accepted on the registers `r`. -/
structure LatchingA (r : RegsA) (k : Nat) (s : State) : Prop extends RunningA s where
  regs : s.a = r.latching s.cfg k

section
variable {r : RegsA} {k : Nat}

theorem LatchingA.phase (h : LatchingA r k s) : s.a.tphase = .resetSettle := by rw [h.regs]; rfl

/-- Short of `SETTLE_TICKS` ticks the settle is not over (R191). -/
theorem LatchingA.settling (h : LatchingA r k s) (more : k < s.cfg.settleTicks) : s.a.settleCnt ≠ 0#16 := by
  obtain ⟨-, -, -, -, -, -, -, -, -, bounded, -⟩ := s.cfg.legal_iff.mp h.inv.legal
  rw [h.regs, RegsA.latching]
  bv_omega

/-- The agents of one tick: the line low, `settle_cnt` one down. -/
theorem LatchingA.acts (h : LatchingA r k s) (more : k < s.cfg.settleTicks) (stall : Bool) :
    ∃ t, agents stall s = .next t ∧ t.dout = false ∧ LatchingA r (k + 1) t := by
  obtain ⟨-, -, -, -, -, -, -, -, -, bounded, -⟩ := s.cfg.legal_iff.mp h.inv.legal
  have quiet := h.toRunningA.phase.settling (.inr (.inr h.phase))
  have down : BitVec.ofNat 16 (s.cfg.settleTicks - k) - 1#16 = BitVec.ofNat 16 (s.cfg.settleTicks - (k + 1)) := by bv_omega
  have acts := h.inv.agentsA_eq h.backend stall
  rw [quiet.transport, doutA_of_off quiet.pwm, RegsA.count_of_off quiet.pwm, RegsA.settleDown_of_settling (h.settling more)] at acts
  refine ⟨_, acts, rfl, ⟨inv_of_agents_next h.inv acts, h.backend, h.busy, h.built⟩, ?_⟩
  rw [h.regs]
  simp only [RegsA.latching, down]

/-- One tick of the settle. -/
theorem LatchingA.tick (h : LatchingA r k s) (more : k < s.cfg.settleTicks) (noReset : (nextInput s).rst = false) :
    ∃ t, BusyRun 1 s [false] t ∧ LatchingA r (k + 1) t := by
  have waits : sequencer (beginTick s) = beginTick s :=
    h.sequencer_eq.trans (sequencerA_settling (.inr (.inr h.phase)) (h.settling more))
  have running : readyNow s = false := by rw [readyNow, waits, cmdReady, beginTick_busy, h.busy]; rfl
  have begun : LatchingA r k (beginTick s) := ⟨⟨h.inv.beginTick, h.backend, h.busy, h.built⟩, h.regs⟩
  obtain ⟨t, acts, level, next⟩ := begun.acts more (nextInput s).stall
  have e : step s = .next t := by rw [step_of_not_ready noReset running, waits, acts]
  have run := BusyRun.tick noReset h.busy running e
  rw [level] at run
  exact ⟨t, run, next⟩

/-- After the last, the next tick finds the settle over (R190). -/
theorem LatchingA.ready (h : LatchingA r k s) (last : k = s.cfg.settleTicks) : readyNow s = true := by
  have elapsed : s.a.settleCnt = 0#16 := by rw [h.regs, RegsA.latching, last, Nat.sub_self]
  have falls : (sequencerA (beginTick s)).busy = false := by simp [sequencerA, h.phase, settled, elapsed]
  rw [readyNow_iff_not_busy, h.sequencer_eq, falls]

end

/-- A `reset` followed into its settle, up to its last tick. -/
theorem ResetComes.latches {k : Nat} (h : ResetComes s) (backend : s.cfg.backend = .A) (positive : 0 < k)
    (within : k ≤ s.cfg.settleTicks) (noReset : noRst k s) : ∃ t, ResetRun k s (low k) t ∧ LatchingA s.a k t := by
  obtain ⟨n, rfl⟩ := Nat.exists_eq_add_of_le' positive
  have begun : LatchingA s.a 0 (latched s) := ⟨⟨h.latched_inv, by simpa using backend, latched_busy s, h.latched_built⟩, by
    rw [latched_cfg]; exact h.latched_a backend⟩
  obtain ⟨u, acts, level, first⟩ := begun.acts (by rw [latched_cfg]; omega) (nextInput s).stall
  have e : step s = .next u := (h.step_eq (nextInput_rst_of_noRst noReset)).trans acts
  have cfg : u.cfg = s.cfg := by rw [agents_next acts]; exact latched_cfg s
  obtain ⟨t, run, -, last⟩ := BusyRun.ticks (n := n) (level := fun _ => false) (I := fun p => p.rst = false)
    (Q := fun j t => t.cfg = s.cfg ∧ LatchingA s.a (j + 1) t)
    (fun j t hj ⟨cfg, at_j⟩ noReset => by
      obtain ⟨v, run, next⟩ := at_j.tick (by rw [cfg]; omega) noReset
      exact ⟨v, run, run.cfg.trans cfg, next⟩)
    ⟨cfg, first⟩ (noRst_of_step e noReset)
  have whole := h.run noReset acts run
  rw [level, List.map_const', List.length_range, ← List.replicate_succ] at whole
  exact ⟨t, whole, last⟩

/-- Settles O44: the settle of `latches`, followed to each of its ticks and to its last. -/
theorem resetOnTheLineA : Obligations.ResetOnTheLineA := by
  intro s w inv backend ready presented word inited noReset
  have h : ResetComes s := ⟨inv, ready, ⟨w, presented, word⟩, inited⟩
  obtain ⟨-, -, -, -, -, -, -, -, positive, -⟩ := s.cfg.legal_iff.mp inv.legal
  obtain ⟨t, run, last⟩ := h.latches backend positive le_rfl noReset
  refine ⟨run.line, run.busy, fun j positive within => ?_, t, run.reaches, last.busy, last.ready (by rw [run.cfg]), run.strip, run.fba,
    run.fbb, ?_⟩
  · obtain ⟨u, run, at_j⟩ := h.latches backend positive within (noRst_of_le noReset within)
    exact ⟨u, run.reaches, by rw [at_j.regs]; rfl, by rw [at_j.regs]; rfl⟩
  · rw [last.regs, run.cfg, RegsA.latching, Nat.sub_self]

/-! ### Backend B: one reset block (R235, R262) -/

/-- The bytes of a reset block (R231). -/
def resetBlock (c : Config) : List Byte := List.replicate c.resetBytes 0#8

@[simp] theorem resetBlock_length (c : Config) : (resetBlock c).length = c.resetBytes := List.length_replicate

theorem resetBlock_getD (c : Config) (p : Nat) : (resetBlock c).getD p 0#8 = 0#8 := getD_replicate_self ..

theorem resetBlock_pos {c : Config} (legal : c.legal = true) : 0 < (resetBlock c).length := by
  rw [Config.legal_iff] at legal
  rw [resetBlock_length]
  omega

/-- A reset block is low throughout. -/
theorem streamLevel_resetBlock (c : Config) (ticks i : Nat) : streamLevel ticks (resetBlock c) i = false := by
  rw [streamLevel, resetBlock_getD, BitVec.getLsbD_zero]

/-- A stream as long as one reset block reads no buffer (R235, R262). -/
theorem streamAt_of_resetBlock (length : s.b.blen.toNat = s.cfg.resetBytes) (p : Nat) : streamAt s p = 0#8 :=
  if_neg (by omega)

/-- The accepted command leaves the agents a reset block to send. -/
theorem ResetComes.streaming (h : ResetComes s) (backend : s.cfg.backend = .B) : Streaming (resetBlock s.cfg) 0 0 (latched s) := by
  have rest := (h.inv.beginTick.sequencer.onB (by simpa using backend)).rest (.inl h.idle)
  have bounded := resetBytes_lt backend h.inv.legal
  have begun : (latched s).b = (sequencer (beginTick s)).b.begin (resetBlock s.cfg).length := by
    rw [latched, beginReset_b, if_pos (by simpa using backend)]
    simp
  have length : (latched s).b.blen.toNat = (latched s).cfg.resetBytes := by
    rw [begun]
    simpa using bounded
  refine .of_begin h.latched_inv (by simpa using backend) (latched_busy s) h.latched_built rest begun (by simpa using bounded)
    fun p => ?_
  rw [streamAt_of_resetBlock length, resetBlock_getD]

/-- To the tick in which `busy` falls. -/
theorem ResetComes.sends (h : ResetComes s) (backend : s.cfg.backend = .B) (noReset : noRst (resetTicksB s.cfg) s) :
    ∃ t, ResetRun (resetTicksB s.cfg) s (low (resetTicksB s.cfg)) t ∧
      Streaming (resetBlock s.cfg) (8 * (resetBlock s.cfg).length) 0 t := by
  have nonempty := resetBlock_pos h.inv.legal
  have total : resetTicksB s.cfg = 8 * (resetBlock s.cfg).length * s.cfg.sbitTicks := by
    rw [resetTicksB, resetBlock_length, Nat.mul_left_comm, Nat.mul_assoc]
  have positive : 0 < resetTicksB s.cfg := by
    rw [total]
    exact Nat.mul_pos (by omega) (sbitTicks_pos h.inv.legal)
  obtain ⟨n, whole⟩ := Nat.exists_eq_add_of_le' positive
  rw [whole] at noReset total ⊢
  obtain ⟨u, acts, level, first⟩ := (h.streaming backend).first nonempty (nextInput s).stall
  have e : step s = .next u := (h.step_eq (nextInput_rst_of_noRst noReset)).trans acts
  have cfg : u.cfg = s.cfg := by rw [agents_next acts]; exact latched_cfg s
  rw [latched_cfg, ← cfg] at first
  obtain ⟨t, run, ended⟩ := first.runs (by rw [cfg, ← total, Nat.add_comm]) (noRst_of_step e noReset)
  have run := h.run noReset acts run
  simp only [level, streamLevel_resetBlock, List.map_const', List.length_range, ← List.replicate_succ] at run
  exact ⟨t, run, by rwa [cfg] at ended⟩

/-- Settles O45: the stream of the reset block, from acceptance to its end. -/
theorem resetOnTheLineB : Obligations.ResetOnTheLineB := by
  intro s w inv backend ready presented word inited noReset
  have h : ResetComes s := ⟨inv, ready, ⟨w, presented, word⟩, inited⟩
  have nonempty := resetBlock_pos inv.legal
  obtain ⟨t, run, sent⟩ := h.sends backend noReset
  obtain ⟨rest, out, -, last⟩ := sent.ended nonempty
  refine ⟨?_, run.busy, t, run.reaches, sent.busy, (sent.falls nonempty).1, run.strip, run.fba, run.fbb, ?_, ?_, ?_, out⟩
  · rw [run.line, resetTicksB, Nat.mul_assoc]
  · simp [spiTc, rest.idle, rest.empty]
  · rw [rest.sent, sent.length, resetBlock_length]
  · rw [last, resetBlock_getD]

end Sys2Proof.Machine
end

section
/-! PROOFS. Hardware reset (70_reset_and_hazards.md): the tick with `rst = 1`, whatever was in progress. -/

namespace Sys2Proof.Machine

variable {s : State}

/-! ### The outputs after hardware reset (R15, R50, R310) -/

/-- The line is low on either backend: its level does not depend on the inputs to come or the tick count, which reset leaves alone. -/
@[simp] theorem doutOf_hardwareReset : doutOf (hardwareReset s) = false := doutOf_resetWith s.cfg (Config.freeDraw s.ticks)

@[simp] theorem cmdReady_hardwareReset : cmdReady (hardwareReset s) = true := rfl

@[simp] theorem rspValid_hardwareReset : rspValid (hardwareReset s) = false := rfl

/-- Settles O54: such a tick is `hardwareReset` alone, whose registers are those of the reset records and whose parameters are the old.
(`hardwareReset` itself is a name of the model's.) -/
theorem hardwareReset_values : Obligations.HardwareReset := by
  intro s reset
  refine ⟨hardwareReset (beginTick s), tick_rst reset, ?_⟩
  simp [Strip.reset, RegsA.reset, RegsB.reset, txe, spiTc]

end Sys2Proof.Machine
end
